-- ==== Sys2Proof/Word.lean ====
section
/-! DEFINITION. The word types of the block (00_scope.md R14; 92_eei_decisions.md D10): unsigned words of
1, 2, 3, 8, 16 and 32 bits and the pin vector. No signed value exists. -/

namespace Sys2Proof

/-- `u2`: the width of `phase` and of `plan.kind` (R36, R43). -/
abbrev U2 := BitVec 2

/-- `u3`: the width of `slot` (R38). -/
abbrev U3 := BitVec 3

/-- `u8`: pins, channel ids, masks, skip counts, the cursor, the pending-update counter (D10). -/
abbrev U8 := BitVec 8

/-- `u16`: widths, periods and the timer count, in microseconds (D10, R12). -/
abbrev U16 := BitVec 16

/-- `u32`: the command word and the response word (R90, R94). -/
abbrev U32 := BitVec 32

/-- The spec's `bv`: one bit per output pin, bit `p` standing for pin `p` (R14, R7).

DEDUCED (log 2), safe: the spec's vector has NPINS bits and 1 ≤ NPINS ≤ 255 (R7), so the model holds 255 bits,
of which the bits at and above NPINS are never set. -/
abbrev Pins := BitVec 255

end Sys2Proof
end

