-- ==== Sys2Proof/Syntax.lean ====
section
/-! DEFINITION. The instructions: one constructor per row of spec/opcode_table.json (nine CMD, two PLAN, three PHASE),
and the three code spaces their encodings live in (30_encoding.md R92, R97, R98). -/

namespace Sys2Proof

/-- One constructor per row of the opcode table. The PLAN and PHASE rows carry no operand of their own: what they
need stands in the `plan` register and in the active queue (R160, R175, R208 to R210). -/
inductive Instr where
  /-- `ATTACH pin` (R123). -/
  | attach (pin : U8)
  /-- `ATTACHF pin, mask` (R124). -/
  | attachf (pin : U8) (mask : U8)
  /-- `DETACH ch` (R125). -/
  | detach (ch : U8)
  /-- `SET_PULSE ch, width`, with the flag `b`: `SET_PULSE.B` when it is set (R126, R102). -/
  | setPulse (buffered : Bool) (ch : U8) (width : U16)
  /-- `GET_PULSE ch` (R127). -/
  | getPulse (ch : U8)
  /-- `SET_FREQ ch, mask` (R128). -/
  | setFreq (ch : U8) (mask : U8)
  /-- `SET_BASE_FREQ hz` (R129). -/
  | setBaseFreq (hz : U16)
  /-- `SET_PERIOD width` (R130). -/
  | setPeriod (width : U16)
  /-- `FORCE_RESYNC` (R131). -/
  | forceResync
  /-- `PREP.REBUILD`, phase B of a command that chose a rebuild (R160). -/
  | prepRebuild
  /-- `PREP.INCR`, phase B of a single width change (R175). -/
  | prepIncr
  /-- `EXPIRE.ALL_HIGH`, the period start (R208). -/
  | expireAllHigh
  /-- `EXPIRE.AWAIT_COMMIT`, the commit point (R209). -/
  | expireAwaitCommit
  /-- `EXPIRE.DRAINING`, the falling edges of one group (R210). -/
  | expireDraining
  deriving DecidableEq, Repr

/-- What a dispatch reads: a 32-bit command word (format CMD, R90), the `plan.kind` code (format PLAN, R98) or the
`phase` code (format PHASE, R97). The three are different code spaces: the same number means different rows. -/
inductive Code where
  | cmd (w : U32)
  | plan (kind : U2)
  | phase (p : U2)
  deriving DecidableEq, Repr

end Sys2Proof
end

