-- ==== Sys2Proof/Decode.lean ====
section
/-! DEFINITION. The decoder and the encoder (30_encoding.md R90 to R93, R97, R98, R107). Total on every code; a code that
is no instruction is rejected by name. -/

namespace Sys2Proof

/-- Why a code is no instruction (R93, R97, R98). -/
inductive DecodeError where
  /-- `op` is 0x0 or 0xA..0xF (R93). -/
  | unassignedOpcode
  /-- The reserved field `z` is not zero (R93). -/
  | reservedBitsSet
  /-- `b = 1` in a command other than SET_PULSE (R93). -/
  | bufferedFlagSet
  /-- A field that the row's mask requires to be zero is not zero (R93). -/
  | unusedFieldSet
  /-- `plan.kind` is IDLE: no preparation is owed (R98). -/
  | idlePlan
  /-- `plan.kind` is the reserved code 3 (R98). -/
  | reservedPlanKind
  /-- `phase` is the reserved code 3 (R97, R212). -/
  | reservedPhase
  deriving DecidableEq, Repr

/-- `cmd[31:28]` (R90). -/
def fieldOp (w : U32) : BitVec 4 := w.extractLsb' 28 4

/-- `cmd[27]`, the buffered flag (R90). -/
def fieldB (w : U32) : BitVec 1 := w.extractLsb' 27 1

/-- `cmd[26:24]`, reserved (R90). -/
def fieldZ (w : U32) : BitVec 3 := w.extractLsb' 24 3

/-- `cmd[23:16]` (R90). -/
def fieldA (w : U32) : U8 := w.extractLsb' 16 8

/-- `cmd[15:8]`: must be zero in a command whose operand is a mask (R90). -/
def fieldDHigh (w : U32) : U8 := w.extractLsb' 8 8

/-- `cmd[7:0]`: the mask operand (R91). -/
def fieldMask (w : U32) : U8 := w.extractLsb' 0 8

/-- `cmd[15:0]` (R90). -/
def fieldD (w : U32) : U16 := w.extractLsb' 0 16

/-- Accept the instruction unless a field that must be zero is set (R93). -/
def requireZero (ok : Bool) (i : Instr) : Except DecodeError Instr :=
  if ok then .ok i else .error .unusedFieldSet

/-- The nine commands by opcode, each with its must-be-zero operand fields (R92). -/
def decodeOp (w : U32) : Except DecodeError Instr :=
  match (fieldOp w).toNat with
  | 1 => requireZero (fieldD w == 0) (.attach (fieldA w))
  | 2 => requireZero (fieldDHigh w == 0) (.attachf (fieldA w) (fieldMask w))
  | 3 => requireZero (fieldD w == 0) (.detach (fieldA w))
  | 4 => .ok (.setPulse (fieldB w == 1) (fieldA w) (fieldD w))
  | 5 => requireZero (fieldD w == 0) (.getPulse (fieldA w))
  | 6 => requireZero (fieldDHigh w == 0) (.setFreq (fieldA w) (fieldMask w))
  | 7 => requireZero (fieldA w == 0) (.setBaseFreq (fieldD w))
  | 8 => requireZero (fieldA w == 0) (.setPeriod (fieldD w))
  | 9 => requireZero (fieldA w == 0 && fieldD w == 0) .forceResync
  | _ => .error .unassignedOpcode

/-- Decode a command word: the reserved bits and the buffered flag (R90, R93), then the row (R92). -/
def decodeCmd (w : U32) : Except DecodeError Instr :=
  if fieldZ w ≠ 0 then .error .reservedBitsSet
  else if fieldB w = 1 ∧ fieldOp w ≠ 4 then .error .bufferedFlagSet
  else decodeOp w

/-- Phase B dispatches on `plan.kind` (R98). -/
def decodePlan (k : U2) : Except DecodeError Instr :=
  match k.toNat with
  | 0 => .error .idlePlan
  | 1 => .ok .prepRebuild
  | 2 => .ok .prepIncr
  | _ => .error .reservedPlanKind

/-- The expiry step dispatches on `phase` (R97). -/
def decodePhase (p : U2) : Except DecodeError Instr :=
  match p.toNat with
  | 0 => .ok .expireAllHigh
  | 1 => .ok .expireAwaitCommit
  | 2 => .ok .expireDraining
  | _ => .error .reservedPhase

/-- Decoding is total (R107). -/
def decode : Code → Except DecodeError Instr
  | .cmd w => decodeCmd w
  | .plan k => decodePlan k
  | .phase p => decodePhase p

/-- Assemble a command word from its fields, `z` being zero (R90). -/
def cmdWord (op : BitVec 4) (b : BitVec 1) (a : U8) (d : U16) : U32 :=
  op ++ b ++ (0 : BitVec 3) ++ a ++ d

/-- The encoding of an instruction (R92, R97, R98). -/
def encode : Instr → Code
  | .attach pin => .cmd (cmdWord 1 0 pin 0)
  | .attachf pin mask => .cmd (cmdWord 2 0 pin (mask.setWidth 16))
  | .detach ch => .cmd (cmdWord 3 0 ch 0)
  | .setPulse b ch width => .cmd (cmdWord 4 (BitVec.ofBool b) ch width)
  | .getPulse ch => .cmd (cmdWord 5 0 ch 0)
  | .setFreq ch mask => .cmd (cmdWord 6 0 ch (mask.setWidth 16))
  | .setBaseFreq hz => .cmd (cmdWord 7 0 0 hz)
  | .setPeriod width => .cmd (cmdWord 8 0 0 width)
  | .forceResync => .cmd (cmdWord 9 0 0 0)
  | .prepRebuild => .plan 1
  | .prepIncr => .plan 2
  | .expireAllHigh => .phase 0
  | .expireAwaitCommit => .phase 1
  | .expireDraining => .phase 2

/-- The code that a row of spec/opcode_table.json with `nbits` bits and the bits `w` stands for: a CMD row has 32
bits; a PLAN or PHASE row has a 2-bit code in one byte.

DESIGN CHOICE (log 10), safe: the table gives a PLAN row and a PHASE row the same bits (codes 1 and 2), so a code of
one byte alone does not say which it is; it is read as the `phase` code, the one that the program counter of this
hardware holds (R16, R97). Inside the machine the two never meet: each register has its own decoder. -/
def tableCode (nbits w : Nat) : Code :=
  if nbits ≤ 8 then .phase (BitVec.ofNat 2 w) else .cmd (BitVec.ofNat 32 w)

/-- The instruction the decoder reads from a table row's bits. No byte order exists (20_memory.md R62): a word is
transferred whole. -/
def decodeTableWord (nbits w : Nat) : Option Instr := (decode (tableCode nbits w)).toOption

end Sys2Proof
end

