-- ==== Sys2Proof/Config.lean ====
section
/-! DEFINITION. The implementation parameters (00_scope.md R6 to R13; 93_implementation_defined.md U2, U3) and the
free values of the model, its two scheduling choices (R17, U3, U9, U10). -/

namespace Sys2Proof

/-- The parameters that an implementation fixes (R6 to R11, and LAT_MAX of U3). Their legal ranges are
`Config.valid` in WellFormed.lean. -/
structure Config where
  /-- `N`, the number of channel slots (R6). -/
  n : Nat
  /-- `NPINS`, the number of output pins (R7). -/
  npins : Nat
  /-- `MIN_PULSE`, in microseconds: clamp bound and commit deadline (R8). -/
  minPulse : Nat
  /-- `JOIN`, in microseconds: the minimum resolvable interval (R9). -/
  join : Nat
  /-- `DEFAULT_PULSE`, in microseconds (R10). -/
  defaultPulse : Nat
  /-- `DEFAULT_PERIOD`, in microseconds (R11). -/
  defaultPeriod : Nat
  /-- `LAT_MAX`: how many ticks may pass while an expiry is due (U3, R218). -/
  latMax : Nat
  deriving DecidableEq, Repr

/-- The reference configuration (R13), with LAT_MAX = 0 (U3: "Reference model: LAT_MAX = 0"). -/
def Config.reference : Config where
  n := 8
  npins := 32
  minPulse := 500
  join := 4
  defaultPulse := 1000
  defaultPeriod := 2500
  latMax := 0

/-- FREE VALUE (log 5), safe: how many unscripted moves come before an owed phase B is taken: any finite number (R17
"Phase B of a command is eventually taken (weak fairness)"; D41; U10 "any value ≥ 0, finite"; U9). Applied to the plain
counter `State.draws`; it has no meaning that a proof could use. -/
opaque Config.freePrepWait : Nat → Nat

/-- FREE VALUE (log 5), safe: whether a due expiry is taken now, where LAT_MAX allows it to wait for another tick (U3 "the
lateness L of each expiry is any value in 0..LAT_MAX"). Applied to the plain counter `State.draws`. -/
opaque Config.freeOnTime : Nat → Bool

end Sys2Proof
end

