-- ==== Sys2Proof/Machine/State.lean ====
section
/-! DEFINITION. The architectural state (10_state.md R20 to R45), the ways a step can stop, and the state after reset
(R53, 70_reset_and_hazards.md R280). -/

namespace Sys2Proof.Machine

/-- A channel record (R21 to R24). -/
structure Channel where
  /-- The bound pin, or 0xFF when the slot is free (R22). -/
  pin : U8
  /-- The pulse width in microseconds (R23). -/
  pw : U16
  /-- The frequency mask: bit `s` stands for slot `s` (R24). -/
  mask : U8
  deriving DecidableEq, Repr

/-- A queue entry (R27 to R31). -/
structure Entry where
  /-- The channel id, or 0xFF (END) in the sentinel (R28). -/
  id : U8
  /-- The frozen width; in the sentinel, the frozen period (R29, R32). -/
  pw : U16
  /-- The pins to clear (R30). -/
  clear : Pins
  /-- The skip count (R31). -/
  skip : U8
  deriving DecidableEq, Repr

/-- A queue buffer: the entries `E[0..N]` and the set bitmaps `set[0..7]` (R27, R33). -/
structure Buffer where
  e : List Entry
  set : Vector Pins 8
  deriving DecidableEq, Repr

/-- The preparation the command engine owes after phase A (R43). -/
structure Plan where
  /-- IDLE = 0, REBUILD = 1, INCR = 2 (R98). -/
  kind : U2
  start : Bool
  resync : Bool
  hadPending : Bool
  ch : U8
  pw : U16
  deriving DecidableEq, Repr

/-- A move of one of the agents, or of the reset input (R17, R280). -/
inductive Move where
  /-- The host presents a word at the command port (R106). -/
  | command (w : U32)
  /-- The command engine takes phase B (R17). -/
  | prepare
  /-- The timebase takes the tick (R206). -/
  | tick
  /-- The sequencer takes the expiry step (R207). -/
  | expire
  /-- The reset input is asserted (R280). -/
  | reset
  deriving DecidableEq, Repr

/-- The whole state: what R20 lists, the ghost time `now` (R45), and five fields of the model's own. -/
structure State where
  /-- MODEL's own (log 1): the parameters of R6 to R11 and U3. No step changes them. -/
  cfg : Config
  /-- `CH[0..N-1]` (R21). -/
  ch : List Channel
  /-- `period_width` (R25). -/
  periodWidth : U16
  /-- `pending_updates` (R26). -/
  pendingUpdates : U8
  /-- `Q[0]` (R27). -/
  q0 : Buffer
  /-- `Q[1]` (R27). -/
  q1 : Buffer
  /-- `active`: false is 0, true is 1 (R34). -/
  active : Bool
  /-- `switch_pending` (R35). -/
  switchPending : Bool
  /-- `phase` (R36). -/
  phase : U2
  /-- `cursor` (R37). -/
  cursor : U8
  /-- `slot` (R38). -/
  slot : U3
  /-- `asserted` (R39). -/
  asserted : Pins
  /-- `timer_run` (R40). -/
  timerRun : Bool
  /-- `timer_cnt` (R41). -/
  timerCnt : U16
  /-- `gpio_out` (R42). -/
  gpioOut : Pins
  /-- `plan` (R43). -/
  plan : Plan
  /-- `rsp` (R44). -/
  rsp : U32
  /-- The ghost time `now` (R45). DESIGN CHOICE (log 7), safe: a natural number, since the spec gives no width. -/
  now : Nat
  /-- MODEL's own (log 6): ticks for which the due expiry has waited (U3, R218). -/
  late : Nat
  /-- MODEL's own (log 3): the moves still to come. -/
  script : List Move
  /-- MODEL's own (log 5): how many unscripted steps were taken, the argument of the free values. -/
  draws : Nat
  /-- MODEL's own (log 5): how many more unscripted moves come before the owed phase B, once that is drawn. -/
  prepWait : Option Nat
  deriving DecidableEq, Repr

/-- How the model stops in a state the spec calls unreachable (93_implementation_defined.md U5: "fault"). All are
safe: the spec gives no behaviour there, and no state reached from reset raises one. -/
inductive Fault where
  /-- The expiry step met `phase = 3` (R212, U5). Raised by the sequencer's dispatch. Safe. -/
  | reservedPhase
  /-- Phase B met `plan.kind = 3` (R98, U5). Raised by the command engine's dispatch. Safe. -/
  | reservedPlanKind
  /-- The sequencer read an entry that the active buffer does not hold (R63, U5). Raised by EXPIRE.AWAIT_COMMIT and
  EXPIRE.DRAINING. Safe. -/
  | cursorOutOfRange
  /-- The destination buffer of PREP.INCR holds no sentinel (R32, U5). Safe. -/
  | noSentinel
  /-- An entry before the sentinel has an id that is neither END nor below N (U5). Raised by PREP.INCR. Safe. -/
  | entryIdOutOfRange
  deriving DecidableEq, Repr

/-- What the model declines to run. -/
inductive Refusal where
  /-- An instruction without a meaning. Raised by no arm of this model. Safe. -/
  | notModelled (mnemonic : String)
  /-- The parameters break a constraint of R6 to R11 ("the model is not instantiated", U13). Raised by `step`. Safe. -/
  | badConfig
  deriving DecidableEq, Repr

/-- `UNASSIGNED` = 0xFF, the pin of a free slot and the reserved pin operand (R96). -/
abbrev unassigned : U8 := 0xFF

/-- `END` = 0xFF, the id of a sentinel (R96). -/
abbrev endId : U8 := 0xFF

/-- The sentinel record for the period `p` (R32). -/
def sentinel (p : U16) : Entry := ⟨endId, p, 0, 1⟩

/-- `EMPTY(p)`: all N+1 entries are sentinel records and every set bitmap is 0 (R32). -/
def emptyBuffer (n : Nat) (p : U16) : Buffer := ⟨List.replicate (n + 1) (sentinel p), Vector.replicate 8 0⟩

/-- A channel record after reset (R53). -/
def freeChannel : Channel := ⟨unassigned, 0, 0xFF⟩

/-- `plan` when no preparation is owed: `{IDLE, 0, 0, 0, 0, 0}` (R53, R160). -/
def Plan.idle : Plan := ⟨0, false, false, false, 0, 0⟩

/-- The state after reset under the parameters `c` (R53, R280). The model's own fields (log 18, DESIGN CHOICE): no
move scripted, no unscripted step taken, no wait drawn, no lateness. -/
def State.resetWith (c : Config) : State where
  cfg := c
  ch := List.replicate c.n freeChannel
  periodWidth := BitVec.ofNat 16 c.defaultPeriod
  pendingUpdates := 0
  q0 := emptyBuffer c.n (BitVec.ofNat 16 c.defaultPeriod)
  q1 := emptyBuffer c.n (BitVec.ofNat 16 c.defaultPeriod)
  active := false
  switchPending := false
  phase := 0
  cursor := 0
  slot := 0
  asserted := 0
  timerRun := false
  timerCnt := 0
  gpioOut := 0
  plan := Plan.idle
  rsp := 0
  now := 0
  late := 0
  script := []
  draws := 0
  prepWait := none

/-- The machine right after reset (R53), in the reference configuration (R13).

DESIGN CHOICE (log 1), unsafe for a statement about this one state: the spec leaves N, NPINS, MIN_PULSE and JOIN open
(R13: "one configuration among those R6 to R12 allow"); `State.resetWith` is the reset state of every other one. -/
def State.reset : State := State.resetWith Config.reference

end Sys2Proof.Machine
end

