-- ==== Sys2Proof/Machine/Operands.lean ====
section
/-! DEFINITION. The arithmetic primitives of 00_scope.md R15, the operands of the commands (30_encoding.md R91, R100)
and the channel lookups of 40_channel_table_commands.md R120, R123. -/

namespace Sys2Proof.Machine

/-- `clamp(v, lo, hi)`: both bounds inclusive, the lower one tested first (R15). -/
def clamp (v lo hi : Nat) : Nat := if v < lo then lo else if hi < v then hi else v

/-- `satsub(a, b)`: a − b if a ≥ b, else 0 (R15). -/
def satsub (a b : U16) : U16 := if b ≤ a then a - b else 0

/-- `satinc8(v)`: v + 1 if v < 255, else 255 (R15). -/
def satinc8 (v : U8) : U8 := if v < 255 then v + 1 else 255

/-- `pinbit(p)`: only bit `p` set (R15). -/
def pinbit (p : U8) : Pins := BitVec.twoPow 255 p.toNat

/-- The bitmap of a pin field: empty for UNASSIGNED (R237). -/
def pinBits (p : U8) : Pins := if p = unassigned then 0 else pinbit p

/-- MIN_PULSE as a word (R8). -/
def State.minPulse (s : State) : U16 := BitVec.ofNat 16 s.cfg.minPulse

/-- `clampw(v)` with the current `period_width` (R15, R121). -/
def State.clampw (s : State) (v : U16) : U16 :=
  BitVec.ofNat 16 (clamp v.toNat s.cfg.minPulse (s.periodWidth.toNat - s.cfg.minPulse))

/-- A record is assigned iff its pin is not 0xFF (R22). -/
def Channel.assigned (c : Channel) : Bool := c.pin != unassigned

/-- The record of a channel id. Outside the table it reads as a free slot (log 8); no rule reads it there. -/
def State.channel (s : State) (c : U8) : Channel := s.ch.getD c.toNat freeChannel

/-- `valid(c)`: c < N and CH[c].pin ≠ 0xFF (R120). -/
def State.validCh (s : State) (c : U8) : Bool := decide (c.toNat < s.cfg.n) && (s.channel c).assigned

/-- A pin operand that attach refuses: the reserved pin 0xFF, or a pin that does not exist (R123). -/
def State.badPin (s : State) (pin : U8) : Bool := pin == unassigned || decide (s.cfg.npins ≤ pin.toNat)

/-- The first index whose record satisfies `p`. -/
def firstIndex (p : Channel → Bool) : List Channel → Option Nat
  | [] => none
  | c :: cs => if p c then some 0 else (firstIndex p cs).map (· + 1)

/-- The largest index whose record satisfies `p`. -/
def lastIndex (p : Channel → Bool) : List Channel → Option Nat
  | [] => none
  | c :: cs =>
    match lastIndex p cs with
    | some k => some (k + 1)
    | none => if p c then some 0 else none

/-- "The first channel slot already bound to `pin`" (R123). -/
def State.boundChannel (s : State) (pin : U8) : Option Nat := firstIndex (fun c => c.pin == pin) s.ch

/-- "The highest-index free slot" (R123, R132). -/
def State.highestFree (s : State) : Option Nat := lastIndex (fun c => !c.assigned) s.ch

/-- The period that a rate operand selects: 50, 100, 200 and 400 hertz only (R100, R129). -/
def periodOfRate (hz : U16) : Option U16 :=
  if hz = 400 then some 2500
  else if hz = 200 then some 5000
  else if hz = 100 then some 10000
  else if hz = 50 then some 20000
  else none

end Sys2Proof.Machine
end

