-- ==== Sys2Proof/Machine/Flags.lean ====
section
/-! DEFINITION. The conditions that the agents test: busy (30_encoding.md R106), the pending interrupt (60_exceptions.md
R254), the tick's enabling (44_sequencer.md R206, R218), an empty table (40_channel_table_commands.md R125). -/

namespace Sys2Proof.Machine

/-- `busy` = (plan.kind ≠ IDLE) (R43, R106). -/
def State.busy (s : State) : Bool := s.plan.kind != 0

/-- The expiry step is enabled: timer_run = 1 and timer_cnt = 0 (R207, R254). -/
def State.due (s : State) : Bool := s.timerRun && s.timerCnt == 0

/-- The tick is enabled when no expiry is due (R206), or, with LAT_MAX > 0, while the due expiry has waited for fewer
than LAT_MAX ticks (U3, R218; log 6). -/
def State.tickEnabled (s : State) : Bool := !s.due || decide (s.late < s.cfg.latMax)

/-- Some channel is assigned (R125). -/
def State.anyAssigned (s : State) : Bool := s.ch.any Channel.assigned

end Sys2Proof.Machine
end

