-- ==== Sys2Proof/Machine/Ops.lean ====
section
/-! DEFINITION. The shared operations: the response (30_encoding.md R94, R95), which takes the place of an exception in
this block (60_exceptions.md R250), the buffers (20_memory.md R60), the Switch Controller (43_switch_controller.md R191
to R193), the choice of a rebuild (40_channel_table_commands.md R122), the timer load, start, stop and restart
(44_sequencer.md R213 to R215), the tick (R206) and RESET (70_reset_and_hazards.md R280). There is no trap entry and no
trap return to model (R256, R257). -/

namespace Sys2Proof.Machine

/-- `NONE` = 0xFFFF (R96). -/
abbrev noneValue : U16 := 0xFFFF

/-- The response word `{ok, ill, 0 (14 bits), value}` (R94). -/
def responseWord (ok ill : Bool) (value : U16) : U32 :=
  BitVec.ofBool ok ++ BitVec.ofBool ill ++ (0 : BitVec 14) ++ value

/-- `respond(ok, ill, value)` (R94). -/
def State.respond (s : State) (ok ill : Bool) (value : U16) : State := { s with rsp := responseWord ok ill value }

/-- OK with a result (R95). -/
def State.respondOk (s : State) (value : U16) : State := s.respond true false value

/-- FAIL (R95). -/
def State.respondFail (s : State) : State := s.respond false false noneValue

/-- ILLEGAL (R95): what an illegal command word does, and all it does (R133). -/
def State.respondIllegal (s : State) : State := s.respond false true noneValue

/-- `Q[b]`: false is `Q[0]`, true is `Q[1]` (R27). -/
def State.buf (s : State) (b : Bool) : Buffer := if b then s.q1 else s.q0

/-- Write `Q[b]`. -/
def State.setBuf (s : State) (b : Bool) (q : Buffer) : State :=
  if b then { s with q1 := q } else { s with q0 := q }

/-- `Q[active]`, the buffer the sequencer reads (R34, R46). -/
def State.activeBuf (s : State) : Buffer := s.buf s.active

/-- `Q[1 − active]`, the buffer that is idle or being prepared (R27). -/
def State.idleBuf (s : State) : Buffer := s.buf (!s.active)

/-- Both buffers become `EMPTY(p)` (R130, R214). -/
def State.emptyBuffers (s : State) (p : U16) : State :=
  { s with q0 := emptyBuffer s.cfg.n p, q1 := emptyBuffer s.cfg.n p }

/-- `CH[i] <- c` (R16). -/
def State.setChannel (s : State) (i : Nat) (c : Channel) : State := { s with ch := s.ch.set i c }

/-- The entries before the sentinel (R32). -/
def Buffer.live (q : Buffer) : List Entry := q.e.takeWhile (fun x => x.id != endId)

/-- The sentinel and the entries after it (R32). -/
def Buffer.rest (q : Buffer) : List Entry := q.e.dropWhile (fun x => x.id != endId)

/-- `cnt`, the first index whose id is END (R32). -/
def Buffer.cnt (q : Buffer) : Nat := q.live.length

/-- cancel: the old flag, and the state with the flag cleared (R191). -/
def State.cancel (s : State) : Bool × State := (s.switchPending, { s with switchPending := false })

/-- publish (R192). -/
def State.publish (s : State) : State := { s with switchPending := true }

/-- commit (R193). -/
def State.commit (s : State) : State :=
  if s.switchPending then { s with switchPending := false, active := !s.active } else s

/-- `choose_rebuild(start, resync)`: cancel, plan REBUILD, clear the counter (R122). -/
def State.chooseRebuild (s : State) (start resync : Bool) : State :=
  { s.cancel.2 with
    plan := { kind := 1, start := start, resync := resync, hadPending := false, ch := 0, pw := 0 }
    pendingUpdates := 0 }

/-- The INCR choice of SET_PULSE: cancel and remember what was cancelled (R126). -/
def State.chooseIncr (s : State) (ch : U8) (pw : U16) : State :=
  { s.cancel.2 with
    plan := { kind := 2, start := false, resync := false, hadPending := s.cancel.1, ch := ch, pw := pw } }

/-- `timer_cnt <- v`. A new interval begins, so it has no lateness yet (U3; log 6). -/
def State.loadTimer (s : State) (v : U16) : State := { s with timerCnt := v, late := 0 }

/-- start() (R213). -/
def State.start (s : State) : State :=
  { s.loadTimer 0 with phase := 0, cursor := 0, slot := 0, asserted := 0, timerRun := true }

/-- stop() (R214). -/
def State.stop (s : State) : State :=
  { (s.loadTimer 0).emptyBuffers s.periodWidth with
    timerRun := false
    gpioOut := s.gpioOut &&& ~~~ s.asserted
    asserted := 0
    switchPending := false
    active := false
    phase := 0
    cursor := 0
    slot := 0
    pendingUpdates := 0 }

/-- restart() (R215). -/
def State.restart (s : State) : State := { s.loadTimer 0 with phase := 0, cursor := 0 }

/-- TICK (R206). While an expiry is due (only with LAT_MAX > 0) the count stays 0 and the lateness grows (U3; log 6). -/
def State.tick (s : State) : State :=
  if s.due then { s with now := s.now + 1, late := s.late + 1 }
  else { s with now := s.now + 1, timerCnt := if s.timerRun then s.timerCnt - 1 else s.timerCnt }

/-- RESET (R280): every piece of the block's state takes its reset value, `now` included. The parameters, the moves to
come and the count of unscripted steps are not the block's state and stay (log 13). -/
def State.doReset (s : State) : State :=
  { State.resetWith s.cfg with script := s.script, draws := s.draws }

/-- A computation that may meet a state the spec calls unreachable, as an outcome. -/
def finish : Except Fault State → Host.Outcome State Fault Refusal
  | .ok s => .next s
  | .error f => .fault f

end Sys2Proof.Machine
end

