-- ==== Sys2Proof/Machine/Commands.lean ====
section
/-! DEFINITION. The nine host commands: phase A of each (40_channel_table_commands.md R123 to R131). -/

namespace Sys2Proof.Machine

/-- Bind `pin` to the free slot `i`: the default width, clamped, and the given mask; then choose the rebuild that starts
the timer if it is stopped, and answer the channel (R123, R124). -/
def State.bindNew (s : State) (i : Nat) (pin mask : U8) : State :=
  ((s.setChannel i ⟨pin, s.clampw (BitVec.ofNat 16 s.cfg.defaultPulse), mask⟩).chooseRebuild (!s.timerRun) false).respondOk
    (BitVec.ofNat 16 i)

/-- ATTACH (R123). -/
def execAttach (pin : U8) (s : State) : Host.Outcome State Fault Refusal :=
  if s.badPin pin then .next s.respondFail
  else
    match s.boundChannel pin with
    | some i => .next (s.respondOk (BitVec.ofNat 16 i))
    | none =>
      match s.highestFree with
      | none => .next s.respondFail
      | some i => .next (s.bindNew i pin 0xFF)

/-- Give channel `i` the mask `m`: nothing if it has it, else the new mask and a rebuild (R124, R128). -/
def State.changeMask (s : State) (i : Nat) (m : U8) : State :=
  let c := s.ch.getD i freeChannel
  if c.mask = m then s else (s.setChannel i { c with mask := m }).chooseRebuild false false

/-- ATTACHF (R124). -/
def execAttachf (pin mask : U8) (s : State) : Host.Outcome State Fault Refusal :=
  if s.badPin pin then .next s.respondFail
  else
    match s.boundChannel pin with
    | some i => .next ((s.changeMask i mask).respondOk (BitVec.ofNat 16 i))
    | none =>
      match s.highestFree with
      | none => .next s.respondFail
      | some i => .next (s.bindNew i pin mask)

/-- Free the slot of a channel; its width and mask stay (R125). -/
def State.freeSlot (s : State) (ch : U8) : State :=
  s.setChannel ch.toNat { s.channel ch with pin := unassigned }

/-- DETACH (R125). -/
def execDetach (ch : U8) (s : State) : Host.Outcome State Fault Refusal :=
  if s.validCh ch then
    let s1 := s.freeSlot ch
    .next ((if s1.anyAssigned then s1.chooseRebuild false false else s1.stop).respondOk 0)
  else .next s.respondFail

/-- The new width of a channel is in the table; now buffer it, or choose a preparation (R126). -/
def State.widthChanged (s : State) (buffered : Bool) (ch : U8) (w : U16) : State :=
  if buffered then { s with pendingUpdates := satinc8 s.pendingUpdates }
  else if s.pendingUpdates = 0 then s.chooseIncr ch w
  else s.chooseRebuild false false

/-- SET_PULSE (R126). -/
def execSetPulse (buffered : Bool) (ch : U8) (width : U16) (s : State) : Host.Outcome State Fault Refusal :=
  if s.validCh ch then
    let w := s.clampw width
    if w = (s.channel ch).pw then .next (s.respondOk 0)
    else .next (((s.setChannel ch.toNat { s.channel ch with pw := w }).widthChanged buffered ch w).respondOk 0)
  else .next s.respondFail

/-- GET_PULSE (R127). -/
def execGetPulse (ch : U8) (s : State) : Host.Outcome State Fault Refusal :=
  if s.validCh ch then .next (s.respondOk (s.channel ch).pw) else .next s.respondFail

/-- SET_FREQ (R128). -/
def execSetFreq (ch mask : U8) (s : State) : Host.Outcome State Fault Refusal :=
  if s.validCh ch then .next ((s.changeMask ch.toNat mask).respondOk 0) else .next s.respondFail

/-- Re-clamp the width of every assigned channel to the current band (R130). -/
def State.reclamp (s : State) : State :=
  { s with ch := s.ch.map (fun c => if c.assigned then { c with pw := s.clampw c.pw } else c) }

/-- The new period with the assigned widths inside its band (R130). -/
def State.withPeriod (s : State) (p : U16) : State := State.reclamp { s with periodWidth := p }

/-- set_period_common(p) (R130). -/
def State.setPeriodCommon (s : State) (p : U16) : State :=
  if p.toNat < 2 * s.cfg.minPulse then s.respondFail
  else if p = s.periodWidth then s.respondOk 0
  else if s.timerRun then ((s.withPeriod p).chooseRebuild false false).respondOk 0
  else ((s.withPeriod p).emptyBuffers p).respondOk 0

/-- SET_BASE_FREQ (R129). -/
def execSetBaseFreq (hz : U16) (s : State) : Host.Outcome State Fault Refusal :=
  match periodOfRate hz with
  | some p => .next (s.setPeriodCommon p)
  | none => .next s.respondFail

/-- SET_PERIOD (R130). -/
def execSetPeriod (width : U16) (s : State) : Host.Outcome State Fault Refusal :=
  .next (s.setPeriodCommon width)

/-- FORCE_RESYNC (R131). -/
def execForceResync (s : State) : Host.Outcome State Fault Refusal :=
  if s.timerRun then
    .next ((if s.pendingUpdates = 0 then s.restart else s.chooseRebuild false true).respondOk 0)
  else .next (s.respondOk 0)

end Sys2Proof.Machine
end

