-- ==== Sys2Proof/Machine/Bitmap.lean ====
section
/-! DEFINITION. The Bitmap Optimizer: build_set_bitmaps and annotate (45_bitmap_optimizer.md R236 to R238). -/

namespace Sys2Proof.Machine

/-- The pin of a channel in the set bitmap of slot `k`: present iff the channel is assigned and its mask has bit `k`
(R236). -/
def Channel.slotBits (c : Channel) (k : Nat) : Pins :=
  if c.assigned && c.mask.getLsbD k then pinbit c.pin else 0

/-- `set[k]`: the or over the Channel Table (R236). -/
def setBitmap (chs : List Channel) (k : Nat) : Pins := chs.foldl (fun m c => m ||| c.slotBits k) 0

/-- build_set_bitmaps: one bitmap per slot (R236). -/
def setBitmaps (chs : List Channel) : Vector Pins 8 := Vector.ofFn (fun k : Fin 8 => setBitmap chs k.val)

/-- Entry `x` joins the group of its right neighbour `y`: their widths differ by less than JOIN (R238). The
subtraction is the u16 one; it never underflows in a sorted buffer (R238; log 15). -/
def joins (join : Nat) (x y : Entry) : Bool := decide ((y.pw - x.pw).toNat < join)

/-- annotate over the entries before the sentinel, from the highest width to the lowest (R238). `pinsOf` gives the
clear bitmap of an entry's own channel (R237). -/
def annotate (join : Nat) (pinsOf : U8 → Pins) : List Entry → List Entry
  | [] => []
  | x :: xs =>
    match annotate join pinsOf xs with
    | [] => [{ x with clear := pinsOf x.id, skip := 1 }]
    | y :: ys =>
      if joins join x y then { x with clear := y.clear ||| pinsOf x.id, skip := y.skip + 1 } :: y :: ys
      else { x with clear := pinsOf x.id, skip := 1 } :: y :: ys

/-- The clear bitmap of one channel, from the Channel Table (R237). -/
def State.clearOf (s : State) (id : U8) : Pins := pinBits (s.channel id).pin

/-- annotate with the machine's JOIN and Channel Table (R238). -/
def State.annotate (s : State) (es : List Entry) : List Entry := Machine.annotate s.cfg.join s.clearOf es

end Sys2Proof.Machine
end

