-- ==== Sys2Proof/Machine/Prepare.lean ====
section
/-! DEFINITION. Phase B: the Queue Builder (41_queue_builder.md R160 to R164) and the Incremental Updater
(42_incremental_updater.md R175 to R182). -/

namespace Sys2Proof.Machine

/-- The unannotated entry of a channel (R160). -/
def Channel.toEntry (c : Channel) (i : Nat) : Entry := ⟨BitVec.ofNat 8 i, c.pw, 0, 1⟩

/-- One entry per assigned channel, in ascending id, the ids counted from `i` (R161). -/
def collectFrom (i : Nat) : List Channel → List Entry
  | [] => []
  | c :: cs => if c.assigned then c.toEntry i :: collectFrom (i + 1) cs else collectFrom (i + 1) cs

/-- The sort key: ascending (width, id) (R162; ties by ascending id, D17, log 14). -/
abbrev queueLe (x y : Entry) : Prop := x.pw < y.pw ∨ (x.pw = y.pw ∧ x.id ≤ y.id)

/-- The sorted list of entries of the assigned channels, not yet annotated (R160 to R162). -/
def State.sortedEntries (s : State) : List Entry := (collectFrom 0 s.ch).insertionSort queueLe

/-- The buffer that a rebuild leaves in place of `old`: the annotated entries, the sentinel with the current period, the
old entries after it, and the set bitmaps (R160, R163). -/
def State.rebuiltBuffer (s : State) (old : Buffer) : Buffer :=
  ⟨s.annotate s.sortedEntries ++ sentinel s.periodWidth :: old.e.drop (s.sortedEntries.length + 1), setBitmaps s.ch⟩

/-- PREP.REBUILD up to and including the publish (R160). -/
def State.rebuildPublish (s : State) : State :=
  (s.setBuf (!s.active) (s.rebuiltBuffer s.idleBuf)).publish

/-- The whole of PREP.REBUILD with its two options (R160). -/
def State.rebuild (s : State) (start resync : Bool) : State :=
  let s1 := s.rebuildPublish
  let s2 := if start then s1.start else s1
  let s3 := if resync then s2.restart else s2
  { s3 with plan := Plan.idle }

/-- PREP.REBUILD (R160). -/
def execPrepRebuild (s : State) : Host.Outcome State Fault Refusal :=
  .next (s.rebuild s.plan.start s.plan.resync)

/-- The leftward loop: the left neighbours, nearest first, and the right part. An entry narrower than its left
neighbour passes it (R180). -/
def bubbleLeft (w : U16) : List Entry → List Entry → List Entry × List Entry
  | [], right => ([], right)
  | y :: left, right => if w < y.pw then bubbleLeft w left (y :: right) else (y :: left, right)

/-- The rightward loop: an entry wider than its right neighbour passes it; the sentinel is never passed (R180). -/
def bubbleRight (w : U16) : List Entry → List Entry → List Entry × List Entry
  | left, [] => (left, [])
  | left, y :: right => if y.pw < w then bubbleRight w (y :: left) right else (left, y :: right)

/-- Restore the order around one changed entry, both loops in turn (R180). -/
def bubble (left : List Entry) (x : Entry) (right : List Entry) : List Entry :=
  let l := bubbleLeft x.pw left.reverse right
  let r := bubbleRight x.pw l.1 l.2
  r.1.reverse ++ x :: r.2

/-- Overwrite the width of the entry of channel `ch` and restore the order; none if it has no entry (R178 to R180). -/
def updateWidth (ch : U8) (w : U16) (es : List Entry) : Option (List Entry) :=
  match es.dropWhile (fun x => x.id != ch) with
  | [] => none
  | x :: right => some (bubble (es.takeWhile (fun x => x.id != ch)) { x with pw := w } right)

/-- The source buffer of PREP.INCR: the non-active one if a swap was cancelled, else the active one (R176). -/
def State.incrSource (s : State) : Buffer := if s.plan.hadPending then s.idleBuf else s.activeBuf

/-- PREP.INCR (R175): copy, locate, overwrite, bubble, annotate, publish; a rebuild if the channel has no entry
(R181). -/
def State.incr (s : State) : Except Fault State :=
  let src := s.incrSource
  let s1 := s.setBuf (!s.active) src
  if src.rest = [] then .error .noSentinel
  else if src.live.any (fun x => decide (s.cfg.n ≤ x.id.toNat)) then .error .entryIdOutOfRange
  else
    match updateWidth s.plan.ch s.plan.pw src.live with
    | none => .ok (s1.rebuild false false)
    | some es =>
      .ok { (s1.setBuf (!s.active) ⟨s.annotate es ++ src.rest, src.set⟩).publish with plan := Plan.idle }

/-- PREP.INCR (R175). -/
def execPrepIncr (s : State) : Host.Outcome State Fault Refusal := finish s.incr

end Sys2Proof.Machine
end

