-- ==== Sys2Proof/Machine/Sequencer.lean ====
section
/-! DEFINITION. The three arms of the expiry step (44_sequencer.md R208 to R211). -/

namespace Sys2Proof.Machine

/-- EXPIRE.ALL_HIGH (R208): drive the pins of this slot high, schedule the commit point. -/
def State.allHigh (s : State) : State :=
  let m := s.activeBuf.set[s.slot.toNat]'(s.slot.isLt)
  { s.loadTimer s.minPulse with
    gpioOut := s.gpioOut ||| m
    asserted := s.asserted ||| m
    slot := s.slot + 1
    phase := 1 }

/-- EXPIRE.ALL_HIGH (R208). -/
def execExpireAllHigh (s : State) : Host.Outcome State Fault Refusal := .next s.allHigh

/-- end_of_queue(sentinel, prev): asserted pins low, wait out the period (R211). -/
def State.endOfQueue (s : State) (period prev : U16) : State :=
  { s.loadTimer (satsub period prev) with
    gpioOut := s.gpioOut &&& ~~~ s.asserted
    asserted := 0
    phase := 0 }

/-- `Q[active].E[k]`; an index outside the buffer is unreachable and a fault (R63, U5). -/
def State.entryAt (s : State) (k : Nat) : Except Fault Entry :=
  match s.activeBuf.e[k]? with
  | some x => .ok x
  | none => .error .cursorOutOfRange

/-- Schedule the event of the entry `x` that the cursor stands on, `prev` being the width of the last event (R209,
R210). -/
def State.schedule (s : State) (x : Entry) (prev : U16) : State :=
  if x.id = endId then s.endOfQueue x.pw prev
  else { s.loadTimer (satsub x.pw prev) with phase := 2 }

/-- drain(): clear the group's pins, advance the cursor by skip, schedule the next event (R210). The sum is exact: a
cursor past the buffer is a fault, it does not wrap (U5; log 15). -/
def State.drain (s : State) : Except Fault State :=
  match s.entryAt s.cursor.toNat with
  | .error f => .error f
  | .ok x =>
    match s.entryAt (s.cursor.toNat + x.skip.toNat) with
    | .error f => .error f
    | .ok y =>
      .ok (State.schedule
        { s with gpioOut := s.gpioOut &&& ~~~ x.clear, cursor := BitVec.ofNat 8 (s.cursor.toNat + x.skip.toNat) } y x.pw)

/-- EXPIRE.DRAINING (R210). -/
def execExpireDraining (s : State) : Host.Outcome State Fault Refusal := finish s.drain

/-- EXPIRE.AWAIT_COMMIT (R209): commit, cursor to 0, then the first event; a first width of MIN_PULSE falls through
into the drain action in the same step. -/
def State.awaitCommit (s : State) : Except Fault State :=
  let s1 := { s.commit with cursor := 0 }
  match s1.entryAt 0 with
  | .error f => .error f
  | .ok x =>
    if x.id ≠ endId ∧ satsub x.pw s1.minPulse = 0 then s1.drain
    else .ok (s1.schedule x s1.minPulse)

/-- EXPIRE.AWAIT_COMMIT (R209). -/
def execExpireAwaitCommit (s : State) : Host.Outcome State Fault Refusal := finish s.awaitCommit

end Sys2Proof.Machine
end

