-- ==== Sys2Proof/Machine/Dispatch.lean ====
section
/-! DEFINITION. The meaning of every instruction, arm by arm. -/

namespace Sys2Proof.Machine

def exec (i : Instr) (s : State) : Host.Outcome State Fault Refusal :=
  match i with
  | .attach pin => Sys2Proof.Machine.execAttach pin s
  | .attachf pin mask => Sys2Proof.Machine.execAttachf pin mask s
  | .detach ch => Sys2Proof.Machine.execDetach ch s
  | .setPulse b ch width => Sys2Proof.Machine.execSetPulse b ch width s
  | .getPulse ch => Sys2Proof.Machine.execGetPulse ch s
  | .setFreq ch mask => Sys2Proof.Machine.execSetFreq ch mask s
  | .setBaseFreq hz => Sys2Proof.Machine.execSetBaseFreq hz s
  | .setPeriod width => Sys2Proof.Machine.execSetPeriod width s
  | .forceResync => Sys2Proof.Machine.execForceResync s
  | .prepRebuild => Sys2Proof.Machine.execPrepRebuild s
  | .prepIncr => Sys2Proof.Machine.execPrepIncr s
  | .expireAllHigh => Sys2Proof.Machine.execExpireAllHigh s
  | .expireAwaitCommit => Sys2Proof.Machine.execExpireAwaitCommit s
  | .expireDraining => Sys2Proof.Machine.execExpireDraining s

end Sys2Proof.Machine
end

