-- ==== Sys2Proof/Machine/Agents.lean ====
section
/-! DEFINITION. The four agents (00_scope.md R17): what each move does when it is offered, which moves are enabled, and
which move comes next. Called by Step.lean. -/

namespace Sys2Proof.Machine

/-- Phase A of an accepted word: the instruction it decodes to, or the ILLEGAL response (R17, R93, R133). -/
def State.phaseA (s : State) (w : U32) : Host.Outcome State Fault Refusal :=
  match decode (.cmd w) with
  | .ok i => exec i s
  | .error _ => .next s.respondIllegal

/-- Phase B: the preparation that `plan.kind` names (R98); the reserved code is a fault (U5). -/
def State.phaseB (s : State) : Host.Outcome State Fault Refusal :=
  match decode (.plan s.plan.kind) with
  | .ok i => exec i s
  | .error _ => .fault .reservedPlanKind

/-- The expiry step: the arm that `phase` names (R207); the reserved code is a fault (R212, U5). -/
def State.expiry (s : State) : Host.Outcome State Fault Refusal :=
  match decode (.phase s.phase) with
  | .ok i => exec i s
  | .error _ => .fault .reservedPhase

/-- The move is enabled (R17). A word is accepted only when the engine is idle (R106); reset is enabled at any time
(R280). -/
def State.enabled (s : State) : Move → Bool
  | .command _ => !s.busy
  | .prepare => s.busy
  | .tick => s.tickEnabled
  | .expire => s.due
  | .reset => true

/-- Take an enabled move. -/
def State.perform (s : State) : Move → Host.Outcome State Fault Refusal
  | .command w => s.phaseA w
  | .prepare => s.phaseB
  | .tick => .next s.tick
  | .expire => s.expiry
  | .reset => .next s.doReset

/-- Offer a move: a move that is not enabled has no effect; so has a word presented while busy (R106, U6; log 4). -/
def State.offer (s : State) (m : Move) : Host.Outcome State Fault Refusal :=
  if s.enabled m then s.perform m else .next s

/-- The move of the two agents that time drives: the expiry step if one is due, else the tick. Where LAT_MAX lets a due
expiry wait for another tick, a free value says whether it does (R206, U3, R218; log 5). -/
def State.clockMove (s : State) : Move :=
  if s.due && (!decide (s.late < s.cfg.latMax) || Config.freeOnTime s.draws) then .expire else .tick

/-- The move to offer now and the state without it: the next one of the script (log 3). When the script is empty the block
goes on by itself: phase B is taken once a finite number of other moves, a free value, has passed since it was owed (R17
"eventually taken", D41, U9, U10; log 5); every other move is a clock move. -/
def State.nextMove (s : State) : Move × State :=
  match s.script with
  | m :: ms => (m, { s with script := ms })
  | [] =>
    if s.busy then
      match s.prepWait.getD (Config.freePrepWait s.draws) with
      | 0 => (.prepare, { s with draws := s.draws + 1, prepWait := none })
      | n + 1 => (s.clockMove, { s with draws := s.draws + 1, prepWait := some n })
    else (s.clockMove, { s with draws := s.draws + 1, prepWait := none })

/-- The port and the sequencer made ready so that the very next step runs the code: a command word is presented to an
idle engine; a plan code is owed by it; a phase code is due (R106, R98, R97; log 11). -/
def State.withCode (s : State) : Code → State
  | .cmd w => { s with plan := Plan.idle, script := .command w :: s.script }
  | .plan k => { s with plan := { s.plan with kind := k }, script := .prepare :: s.script }
  | .phase p => { s with phase := p, timerRun := true, timerCnt := 0, script := .expire :: s.script }

end Sys2Proof.Machine
end

