-- ==== Sys2Proof/WellFormed.lean ====
section
/-! DEFINITION. Well-formedness: the legal codes as the mask and match table of 30_encoding.md R92, R97, R98 gives them
(R93: every other word is illegal), and the legal parameter values of 00_scope.md R6 to R11. An `Instr` itself has no
ill-formed value: its operands have the widths of R90. -/

namespace Sys2Proof

/-- One row of the opcode table of R92: the word is this command iff `w &&& mask = pattern`. -/
structure CmdRow where
  mask : U32
  pattern : U32
  deriving DecidableEq, Repr

/-- The nine CMD rows of R92, in its order. -/
def cmdRows : List CmdRow :=
  [⟨0xFF00FFFF, 0x10000000⟩, ⟨0xFF00FF00, 0x20000000⟩, ⟨0xFF00FFFF, 0x30000000⟩,
   ⟨0xF7000000, 0x40000000⟩, ⟨0xFF00FFFF, 0x50000000⟩, ⟨0xFF00FF00, 0x60000000⟩,
   ⟨0xFFFF0000, 0x70000000⟩, ⟨0xFFFF0000, 0x80000000⟩, ⟨0xFFFFFFFF, 0x90000000⟩]

/-- The word is the command of this row (R92). -/
def CmdRow.covers (r : CmdRow) (w : U32) : Bool := w &&& r.mask == r.pattern

/-- A code that some row of the opcode table covers (R92, R97, R98). -/
def Code.legal : Code → Bool
  | .cmd w => cmdRows.any (·.covers w)
  | .plan k => k == 1 || k == 2
  | .phase p => p != 3

/-- The constraints of R6 to R11: "a configuration that breaks one is not a configuration of this hardware". -/
def Config.valid (c : Config) : Bool :=
  decide (1 ≤ c.n ∧ c.n ≤ 32)
  && decide (1 ≤ c.npins ∧ c.npins ≤ 255)
  && decide (1 ≤ c.minPulse ∧ c.minPulse ≤ 32767)
  && decide (1 ≤ c.join ∧ c.join ≤ 255)
  && decide (c.defaultPulse ≤ 65535)
  && decide (2 * c.minPulse ≤ c.defaultPeriod ∧ c.defaultPeriod ≤ 65535)

end Sys2Proof
end

