-- ==== Sys2Proof/Machine/Step.lean ====
section
/-! DEFINITION. One step of the machine: one atomic step of one agent (00_scope.md R17). -/

namespace Sys2Proof.Machine

/-- One step: offer the next move. Parameters outside their constraints are refused (U13: "the model is not
instantiated"). -/
def step (s : State) : Host.Outcome State Fault Refusal :=
  if s.cfg.valid then s.nextMove.2.offer s.nextMove.1 else .refused .badConfig

/-- `s` with the instruction of a table row placed where the next step reads it (log 11). -/
def State.withFetchWord (s : State) (nbits w : Nat) : State := s.withCode (tableCode nbits w)

end Sys2Proof.Machine
end

