-- ==== Sys2Proof/Safety.lean ====
section
/-! DEFINITION. What a safe state and a safe run are: the invariants of 10_state.md section 7 (R46 to R52), with what they
need to be kept by every step, and the steps that never stop. -/

namespace Sys2Proof.Machine

/-- The storage has its shape: legal parameters (R6 to R11), N channel records (R21), N+1 entries per buffer (R27).
This is the canonical form of this machine's storage. -/
abbrev State.Shape (s : State) : Prop :=
  s.cfg.valid = true ∧ s.ch.length = s.cfg.n ∧ s.q0.e.length = s.cfg.n + 1 ∧ s.q1.e.length = s.cfg.n + 1

/-- The reserved codes are never held (R36, R97, R98). -/
abbrev State.LegalCodes (s : State) : Prop := s.phase ≠ 3 ∧ s.plan.kind ≠ 3

/-- The pins of assigned channels exist (R22) and no two assigned channels share a pin (R49). -/
abbrev State.PinsOk (s : State) : Prop :=
  (∀ c ∈ s.ch, c.assigned = true → c.pin.toNat < s.cfg.npins) ∧
  s.ch.Pairwise (fun c d => c.assigned = true → c.pin ≠ d.pin)

/-- The period is legal (R25) and every assigned width is inside the band (R23). -/
abbrev State.BandOk (s : State) : Prop :=
  2 * s.cfg.minPulse ≤ s.periodWidth.toNat ∧
  ∀ c ∈ s.ch, c.assigned = true → s.cfg.minPulse ≤ c.pw.toNat ∧ c.pw.toNat + s.cfg.minPulse ≤ s.periodWidth.toNat

/-- The pin vector has no bit at or above NPINS (R7). -/
abbrev fits (npins : Nat) (m : Pins) : Prop := m.toNat < 2 ^ npins

/-- The skip count of every entry is what the walk of R238 leaves: 1 at the end of a group, one more than the right
neighbour's inside it. -/
def skipsOk (join : Nat) : List Entry → Bool
  | [] => true
  | [x] => x.skip == 1
  | x :: y :: ys => (x.skip == if joins join x y then y.skip + 1 else 1) && skipsOk join (y :: ys)

/-- The period frozen in the sentinel (R32). -/
def Buffer.period (q : Buffer) : U16 := (q.rest.headD (sentinel 0)).pw

/-- A complete buffer: terminated by a sentinel record (R32), sorted and inside the band of its own period (R47), one
entry per channel id (R48), skip counts as annotated (R50), no bit above NPINS (R7). -/
abbrev Buffer.Complete (q : Buffer) (c : Config) : Prop :=
  q.rest.head? = some (sentinel q.period) ∧
  q.live.Pairwise (fun x y => x.pw ≤ y.pw) ∧
  2 * c.minPulse ≤ q.period.toNat ∧
  (∀ x ∈ q.live, c.minPulse ≤ x.pw.toNat ∧ x.pw.toNat + c.minPulse ≤ q.period.toNat) ∧
  (q.live.map Entry.id).Nodup ∧
  (∀ x ∈ q.live, x.id.toNat < c.n) ∧
  skipsOk c.join q.live = true ∧
  (∀ x ∈ q.live, fits c.npins x.clear) ∧
  q.set.toList.all (fun m => decide (fits c.npins m)) = true

/-- The assigned channel ids, in ascending order (R161). -/
def State.assignedIds (s : State) : List U8 := (collectFrom 0 s.ch).map Entry.id

/-- The buffer mirrors the Channel Table but for the widths: one entry per assigned channel, the current period, the set
bitmaps and the annotation of the current pins and masks (R48). -/
abbrev State.Mirrors (s : State) (q : Buffer) : Prop :=
  (q.live.map Entry.id).Perm s.assignedIds ∧ q.period = s.periodWidth ∧ q.set = setBitmaps s.ch ∧
  q.live = s.annotate q.live

/-- The buffer prepared last: the pending one, else the active one (R48). -/
def State.latest (s : State) : Buffer := if s.switchPending then s.idleBuf else s.activeBuf

/-- The stopped machine: everything stop or reset clears is clear (R51, R214, R281). -/
abbrev State.Stopped (s : State) : Prop :=
  s.switchPending = false ∧ s.phase = 0 ∧ s.cursor = 0 ∧ s.slot = 0 ∧ s.asserted = 0 ∧ s.active = false ∧
  s.pendingUpdates = 0 ∧ s.timerCnt = 0 ∧ s.gpioOut = 0 ∧
  s.q0 = emptyBuffer s.cfg.n s.periodWidth ∧ s.q1 = emptyBuffer s.cfg.n s.periodWidth

/-- The index is the head of a group: the first entry, or JOIN or more after its left neighbour (R238, R219). -/
def isHead (join : Nat) (es : List Entry) (k : Nat) : Bool :=
  match k with
  | 0 => true
  | k + 1 =>
    match es[k]?, es[k + 1]? with
    | some x, some y => !joins join x y
    | _, _ => true

/-- A preparation in flight (R43, R122, R126, R48): nothing is pending, nothing is buffered; a start goes with a stopped
timer, an assigned channel and a rebuild, a resync with a running one; an update has a source that mirrors the table but
for its channel. -/
abbrev State.PlanOk (s : State) : Prop :=
  (s.plan.start = true → s.plan.kind = 1 ∧ s.timerRun = false) ∧
  (s.plan.resync = true → s.plan.kind = 1 ∧ s.timerRun = true) ∧
  (s.busy = true → s.switchPending = false ∧ s.pendingUpdates = 0) ∧
  (s.busy = true → s.timerRun = false → s.plan.kind = 1 ∧ s.plan.start = true ∧ s.anyAssigned = true) ∧
  (s.plan.kind = 2 →
    s.validCh s.plan.ch = true ∧ s.plan.pw = (s.channel s.plan.ch).pw ∧ s.Mirrors s.incrSource ∧
    ∀ x ∈ s.incrSource.live, x.id ≠ s.plan.ch → x.pw = (s.channel x.id).pw)

/-- The timer runs iff a channel is assigned, but for a first attach in flight (R51); a stopped timer means a stopped
machine. -/
abbrev State.TimerOk (s : State) : Prop :=
  (s.timerRun = true → s.anyAssigned = true) ∧
  (s.busy = false → s.anyAssigned = true → s.timerRun = true) ∧
  (s.timerRun = false → s.Stopped)

/-- The last prepared buffer mirrors the table when no preparation is owed, and its widths too when nothing is buffered
(R48). -/
abbrev State.LatestOk (s : State) : Prop :=
  s.busy = false →
    s.Mirrors s.latest ∧ (s.pendingUpdates = 0 → ∀ x ∈ s.latest.live, x.pw = (s.channel x.id).pw)

/-- The sequencer: every high pin is in `asserted` (R39), the cursor is in range (R37) and on a group head while
draining (R219), the lateness is within LAT_MAX and only a due expiry is late (U3). -/
abbrev State.SequencerOk (s : State) : Prop :=
  s.gpioOut &&& ~~~ s.asserted = 0 ∧
  fits s.cfg.npins s.asserted ∧
  s.cursor.toNat ≤ s.cfg.n ∧
  (s.phase = 2 → s.cursor.toNat < s.activeBuf.cnt ∧ isHead s.cfg.join s.activeBuf.live s.cursor.toNat = true) ∧
  s.late ≤ s.cfg.latMax ∧ (s.late ≠ 0 → s.due = true)

/-- The invariant of the machine (R46 to R52 and what keeps them). -/
abbrev State.Inv (s : State) : Prop :=
  s.Shape ∧ s.LegalCodes ∧ s.PinsOk ∧ s.BandOk ∧ s.q0.Complete s.cfg ∧ s.q1.Complete s.cfg ∧
  s.PlanOk ∧ s.TimerOk ∧ s.LatestOk ∧ s.SequencerOk

/-- A safe step: it answers a next state. -/
abbrev State.Goes (s : State) : Prop := ∃ t, step s = .next t

/-! ### The terms of the claims -/

/-- The OK response with the result `v` (R95). -/
abbrev okWord (v : U16) : U32 := 0x80000000 ||| v.setWidth 32

/-- The FAIL response (R95). -/
abbrev failWord : U32 := 0x0000FFFF

/-- The ILLEGAL response (R95). -/
abbrev illegalWord : U32 := 0x4000FFFF

/-- The pin operand names an existing pin and is not the reserved one (R123). -/
abbrev State.PinExists (s : State) (pin : U8) : Prop := pin ≠ unassigned ∧ pin.toNat < s.cfg.npins

/-- `valid(c)` holds and `r` is the record of `c` (R120). -/
abbrev State.ValidChannel (s : State) (c : U8) (r : Channel) : Prop :=
  c.toNat < s.cfg.n ∧ s.ch[c.toNat]? = some r ∧ r.pin ≠ unassigned

/-- How many channels are assigned (R135). -/
def State.assignedCount (s : State) : Nat := s.ch.countP Channel.assigned

/-- The period that starts now is undisturbed: the ALL_HIGH step is due, no command and no preparation is coming, and no
expiry is late (R217, U3). -/
abbrev State.QuietPeriodStart (s : State) : Prop :=
  s.Inv ∧ s.cfg.latMax = 0 ∧ s.script = [] ∧ s.busy = false ∧ s.phase = 0 ∧ s.due = true

/-- When the last falling edge of a period that runs on this buffer comes, counted from the period start: the width of the
head of its last group; MIN_PULSE if the queue is empty (R211, R217, R220). -/
def Buffer.lastFall (q : Buffer) (c : Config) : Nat :=
  match (List.range q.cnt).reverse.find? (isHead c.join q.live) with
  | some k => (q.live.getD k (sentinel 0)).pw.toNat
  | none => c.minPulse

end Sys2Proof.Machine
end

