-- ==== Sys2Proof/Certificates/Slice0/Obligations.lean ====
section
/-! DEFINITION. The statements for the provers. Each docstring names the rules of spec/ that the statement formalises. -/

section Claims

open Sys2Proof Sys2Proof.Machine

/-! ### Encodings (30_encoding.md) -/

/-- Decoding an encoded instruction gives it back, with every operand at every value (R90 to R92, R97, R98). -/
def Obligations.DecodeEncode : Prop := ∀ i : Instr, decode (encode i) = .ok i

/-- R92 and R91: a word is a command iff its mask and match say so, and the operands are the fields as they stand. -/
def Obligations.CommandWords : Prop :=
  ∀ w : U32,
    (w &&& 0xFF00FFFF = 0x10000000 ↔ decode (.cmd w) = .ok (.attach (w.extractLsb' 16 8))) ∧
    (w &&& 0xFF00FF00 = 0x20000000 ↔
      decode (.cmd w) = .ok (.attachf (w.extractLsb' 16 8) (w.extractLsb' 0 8))) ∧
    (w &&& 0xFF00FFFF = 0x30000000 ↔ decode (.cmd w) = .ok (.detach (w.extractLsb' 16 8))) ∧
    (w &&& 0xF7000000 = 0x40000000 ↔
      decode (.cmd w) = .ok (.setPulse (w.getLsbD 27) (w.extractLsb' 16 8) (w.extractLsb' 0 16))) ∧
    (w &&& 0xFF00FFFF = 0x50000000 ↔ decode (.cmd w) = .ok (.getPulse (w.extractLsb' 16 8))) ∧
    (w &&& 0xFF00FF00 = 0x60000000 ↔
      decode (.cmd w) = .ok (.setFreq (w.extractLsb' 16 8) (w.extractLsb' 0 8))) ∧
    (w &&& 0xFFFF0000 = 0x70000000 ↔ decode (.cmd w) = .ok (.setBaseFreq (w.extractLsb' 0 16))) ∧
    (w &&& 0xFFFF0000 = 0x80000000 ↔ decode (.cmd w) = .ok (.setPeriod (w.extractLsb' 0 16))) ∧
    (w &&& 0xFFFFFFFF = 0x90000000 ↔ decode (.cmd w) = .ok .forceResync)

/-- R107: every word is exactly one of the nine commands, and then the decoder drops no bit of it, or it is rejected. -/
def Obligations.DecodingIsTotal : Prop :=
  ∀ w : U32,
    ((∃ r ∈ cmdRows, w &&& r.mask = r.pattern ∧ ∀ q ∈ cmdRows, w &&& q.mask = q.pattern → q = r) ∧
      ∃ i, decode (.cmd w) = .ok i ∧ encode i = .cmd w) ∨
    ((∀ r ∈ cmdRows, w &&& r.mask ≠ r.pattern) ∧ ∃ e, decode (.cmd w) = .error e)

/-- Example words of R123 to R131 and the codes of R97 and R98 decode to the instructions they stand for. -/
def Obligations.ExampleWords : Prop :=
  decode (.cmd 0x10020000) = .ok (.attach 2) ∧ decode (.cmd 0x20030055) = .ok (.attachf 3 0x55) ∧
  decode (.cmd 0x30060000) = .ok (.detach 6) ∧ decode (.cmd 0x400705DC) = .ok (.setPulse false 7 1500) ∧
  decode (.cmd 0x480705DC) = .ok (.setPulse true 7 1500) ∧ decode (.cmd 0x50070000) = .ok (.getPulse 7) ∧
  decode (.cmd 0x60070001) = .ok (.setFreq 7 1) ∧ decode (.cmd 0x70000032) = .ok (.setBaseFreq 50) ∧
  decode (.cmd 0x800007D0) = .ok (.setPeriod 2000) ∧ decode (.cmd 0x90000000) = .ok .forceResync ∧
  decode (.plan 1) = .ok .prepRebuild ∧ decode (.plan 2) = .ok .prepIncr ∧
  decode (.phase 0) = .ok .expireAllHigh ∧ decode (.phase 1) = .ok .expireAwaitCommit ∧
  decode (.phase 2) = .ok .expireDraining

/-- R94: the four fields of a response word. -/
def Obligations.ResponseFields : Prop :=
  ∀ (ok ill : Bool) (v : U16),
    (responseWord ok ill v).getLsbD 31 = ok ∧ (responseWord ok ill v).getLsbD 30 = ill ∧
    (responseWord ok ill v).extractLsb' 16 14 = 0 ∧ (responseWord ok ill v).extractLsb' 0 16 = v

/-! ### Commands (40_channel_table_commands.md) -/

/-- R133: an accepted word that matches no row answers ILLEGAL and changes nothing else. -/
def Obligations.IllegalWordChangesNothing : Prop :=
  ∀ (s : State) (ms : List Move) (w : U32), s.cfg.valid = true → s.script = .command w :: ms → s.plan.kind = 0 →
    (∀ r ∈ cmdRows, w &&& r.mask ≠ r.pattern) → step s = .next { s with script := ms, rsp := illegalWord }

/-- R95, R136, R250: every accepted word is answered at once, by OK, or by FAIL or ILLEGAL with no other change. -/
def Obligations.AcceptedWordIsAnswered : Prop :=
  ∀ (s : State) (ms : List Move) (w : U32), s.cfg.valid = true → s.script = .command w :: ms → s.plan.kind = 0 →
    ∃ t, step s = .next t ∧
      ((∃ v, t.rsp = okWord v) ∨ t = { s with script := ms, rsp := failWord } ∨
        t = { s with script := ms, rsp := illegalWord })

/-- R123: ATTACH, in its four cases: a pin that does not exist, a bound pin, a full table, a new binding in the
highest-index free slot. -/
def Obligations.AttachResult : Prop :=
  ∀ (s : State) (pin : U8),
    (¬ s.PinExists pin → exec (.attach pin) s = .next { s with rsp := failWord }) ∧
    (s.PinExists pin →
      (∀ i c, s.ch[i]? = some c → c.pin = pin → (∀ j < i, ∀ d, s.ch[j]? = some d → d.pin ≠ pin) →
        exec (.attach pin) s = .next { s with rsp := okWord (BitVec.ofNat 16 i) }) ∧
      ((∀ d ∈ s.ch, d.pin ≠ pin) → (∀ d ∈ s.ch, d.pin ≠ unassigned) →
        exec (.attach pin) s = .next { s with rsp := failWord }) ∧
      ((∀ d ∈ s.ch, d.pin ≠ pin) → ∀ i c, s.ch[i]? = some c → c.pin = unassigned →
        (∀ j, i < j → ∀ d, s.ch[j]? = some d → d.pin ≠ unassigned) →
        exec (.attach pin) s = .next { s with
          ch := s.ch.set i ⟨pin, s.clampw (BitVec.ofNat 16 s.cfg.defaultPulse), 0xFF⟩
          switchPending := false
          plan := ⟨1, !s.timerRun, false, false, 0, 0⟩
          pendingUpdates := 0
          rsp := okWord (BitVec.ofNat 16 i) }))

/-- R124: ATTACHF, as ATTACH but for the mask, which it also gives to a bound pin's channel. -/
def Obligations.AttachfResult : Prop :=
  ∀ (s : State) (pin mask : U8),
    (¬ s.PinExists pin → exec (.attachf pin mask) s = .next { s with rsp := failWord }) ∧
    (s.PinExists pin →
      (∀ i c, s.ch[i]? = some c → c.pin = pin → (∀ j < i, ∀ d, s.ch[j]? = some d → d.pin ≠ pin) →
        exec (.attachf pin mask) s = .next (
          if c.mask = mask then { s with rsp := okWord (BitVec.ofNat 16 i) }
          else { s with
            ch := s.ch.set i { c with mask := mask }
            switchPending := false
            plan := ⟨1, false, false, false, 0, 0⟩
            pendingUpdates := 0
            rsp := okWord (BitVec.ofNat 16 i) })) ∧
      ((∀ d ∈ s.ch, d.pin ≠ pin) → (∀ d ∈ s.ch, d.pin ≠ unassigned) →
        exec (.attachf pin mask) s = .next { s with rsp := failWord }) ∧
      ((∀ d ∈ s.ch, d.pin ≠ pin) → ∀ i c, s.ch[i]? = some c → c.pin = unassigned →
        (∀ j, i < j → ∀ d, s.ch[j]? = some d → d.pin ≠ unassigned) →
        exec (.attachf pin mask) s = .next { s with
          ch := s.ch.set i ⟨pin, s.clampw (BitVec.ofNat 16 s.cfg.defaultPulse), mask⟩
          switchPending := false
          plan := ⟨1, !s.timerRun, false, false, 0, 0⟩
          pendingUpdates := 0
          rsp := okWord (BitVec.ofNat 16 i) }))

/-- R125 with stop of R214: DETACH of an invalid channel, of one among others, of the last one. That `late`, the model's own
field, becomes 0 in the last case is the model's choice (log 6). -/
def Obligations.DetachResult : Prop :=
  ∀ (s : State) (c : U8),
    ((∀ r, ¬ s.ValidChannel c r) → exec (.detach c) s = .next { s with rsp := failWord }) ∧
    ∀ r, s.ValidChannel c r →
      ((∃ j d, j ≠ c.toNat ∧ s.ch[j]? = some d ∧ d.pin ≠ unassigned) →
        exec (.detach c) s = .next { s with
          ch := s.ch.set c.toNat { r with pin := unassigned }
          switchPending := false
          plan := ⟨1, false, false, false, 0, 0⟩
          pendingUpdates := 0
          rsp := okWord 0 }) ∧
      ((∀ j d, j ≠ c.toNat → s.ch[j]? = some d → d.pin = unassigned) →
        exec (.detach c) s = .next { s with
          ch := s.ch.set c.toNat { r with pin := unassigned }
          timerRun := false
          timerCnt := 0
          late := 0
          gpioOut := s.gpioOut &&& ~~~ s.asserted
          asserted := 0
          switchPending := false
          active := false
          phase := 0
          cursor := 0
          slot := 0
          pendingUpdates := 0
          q0 := emptyBuffer s.cfg.n s.periodWidth
          q1 := emptyBuffer s.cfg.n s.periodWidth
          rsp := okWord 0 })

/-- R126: SET_PULSE of an invalid channel, with an unchanged width, buffered, alone, and over buffered changes. -/
def Obligations.SetPulseResult : Prop :=
  ∀ (s : State) (b : Bool) (c : U8) (width : U16),
    ((∀ r, ¬ s.ValidChannel c r) → exec (.setPulse b c width) s = .next { s with rsp := failWord }) ∧
    ∀ r, s.ValidChannel c r →
      exec (.setPulse b c width) s = .next (
        if s.clampw width = r.pw then { s with rsp := okWord 0 }
        else if b then { s with
          ch := s.ch.set c.toNat { r with pw := s.clampw width }
          pendingUpdates := if s.pendingUpdates = 255 then 255 else s.pendingUpdates + 1
          rsp := okWord 0 }
        else if s.pendingUpdates = 0 then { s with
          ch := s.ch.set c.toNat { r with pw := s.clampw width }
          switchPending := false
          plan := ⟨2, false, false, s.switchPending, c, s.clampw width⟩
          rsp := okWord 0 }
        else { s with
          ch := s.ch.set c.toNat { r with pw := s.clampw width }
          switchPending := false
          plan := ⟨1, false, false, false, 0, 0⟩
          pendingUpdates := 0
          rsp := okWord 0 })

/-- R127: GET_PULSE answers the Channel Table's width and writes nothing but the response. -/
def Obligations.GetPulseResult : Prop :=
  ∀ (s : State) (c : U8),
    ((∀ r, ¬ s.ValidChannel c r) → exec (.getPulse c) s = .next { s with rsp := failWord }) ∧
    ∀ r, s.ValidChannel c r → exec (.getPulse c) s = .next { s with rsp := okWord r.pw }

/-- R128: SET_FREQ of an invalid channel, with the same mask, with another mask. -/
def Obligations.SetFreqResult : Prop :=
  ∀ (s : State) (c mask : U8),
    ((∀ r, ¬ s.ValidChannel c r) → exec (.setFreq c mask) s = .next { s with rsp := failWord }) ∧
    ∀ r, s.ValidChannel c r →
      exec (.setFreq c mask) s = .next (
        if r.mask = mask then { s with rsp := okWord 0 }
        else { s with
          ch := s.ch.set c.toNat { r with mask := mask }
          switchPending := false
          plan := ⟨1, false, false, false, 0, 0⟩
          pendingUpdates := 0
          rsp := okWord 0 })

/-- R130: SET_PERIOD too short, unchanged, with the timer running, with it stopped; the assigned widths move into the
new band. -/
def Obligations.SetPeriodResult : Prop :=
  ∀ (s : State) (p : U16),
    let moved := s.ch.map (fun c => if c.pin = unassigned then c else
      { c with pw := BitVec.ofNat 16 (clamp c.pw.toNat s.cfg.minPulse (p.toNat - s.cfg.minPulse)) })
    exec (.setPeriod p) s = .next (
      if p.toNat < 2 * s.cfg.minPulse then { s with rsp := failWord }
      else if p = s.periodWidth then { s with rsp := okWord 0 }
      else if s.timerRun then { s with
        periodWidth := p
        ch := moved
        switchPending := false
        plan := ⟨1, false, false, false, 0, 0⟩
        pendingUpdates := 0
        rsp := okWord 0 }
      else { s with
        periodWidth := p
        ch := moved
        q0 := emptyBuffer s.cfg.n p
        q1 := emptyBuffer s.cfg.n p
        rsp := okWord 0 })

/-- R129 and R100: SET_BASE_FREQ is SET_PERIOD of the rate's period for the four rates, and FAIL for every other. -/
def Obligations.SetBaseFreqResult : Prop :=
  ∀ (s : State) (hz : U16),
    (∀ p, (hz = 50 ∧ p = 20000) ∨ (hz = 100 ∧ p = 10000) ∨ (hz = 200 ∧ p = 5000) ∨ (hz = 400 ∧ p = 2500) →
      ∃ t, exec (.setBaseFreq hz) s = .next t ∧ exec (.setPeriod p) s = .next t) ∧
    (hz ≠ 50 → hz ≠ 100 → hz ≠ 200 → hz ≠ 400 → exec (.setBaseFreq hz) s = .next { s with rsp := failWord })

/-- R131 with restart of R215: FORCE_RESYNC with the timer stopped, with updates buffered, with none. That the restart sets
`late`, the model's own field, to 0 is the model's choice (log 6). -/
def Obligations.ForceResyncResult : Prop :=
  ∀ s : State, exec .forceResync s = .next (
    if s.timerRun = false then { s with rsp := okWord 0 }
    else if 0 < s.pendingUpdates then { s with
      switchPending := false
      plan := ⟨1, false, true, false, 0, 0⟩
      pendingUpdates := 0
      rsp := okWord 0 }
    else { s with phase := 0, cursor := 0, timerCnt := 0, late := 0, rsp := okWord 0 })

/-- R121: a width is brought into the band MIN_PULSE to period − MIN_PULSE, both inclusive, and is otherwise kept. -/
def Obligations.ClampedWidth : Prop :=
  ∀ (s : State) (v : U16), s.cfg.valid = true → 2 * s.cfg.minPulse ≤ s.periodWidth.toNat →
    (s.clampw v).toNat = max s.cfg.minPulse (min v.toNat (s.periodWidth.toNat - s.cfg.minPulse))

/-- R126, R127: the width that GET_PULSE answers after a SET_PULSE, buffered or not, is the clamped one. This is about the
two meanings: where the SET_PULSE leaves a preparation owed, the engine is busy and the hardware ignores the GET_PULSE word
until phase B is taken (R106); that `exec` has a meaning there all the same is the model's choice (log 12). -/
def Obligations.GetPulseAfterSetPulse : Prop :=
  ∀ (s : State) (b : Bool) (c : U8) (width : U16) (r : Channel), s.ValidChannel c r →
    ∃ t u, exec (.setPulse b c width) s = .next t ∧ exec (.getPulse c) t = .next u ∧
      u.rsp = okWord (s.clampw width)

/-- R135: what ATTACH, ATTACHF, DETACH and every other instruction do to the number of assigned channels. -/
def Obligations.AssignedCount : Prop :=
  ∀ (s t : State) (i : Instr), exec i s = .next t →
    (∀ pin, (i = .attach pin ∨ ∃ mask, i = .attachf pin mask) →
      t.assignedCount = s.assignedCount +
        if t.rsp.getLsbD 31 = true ∧ ∀ d ∈ s.ch, d.pin ≠ pin then 1 else 0) ∧
    (∀ c, i = .detach c → t.assignedCount + (if t.rsp.getLsbD 31 = true then 1 else 0) = s.assignedCount) ∧
    ((∀ pin, i ≠ .attach pin) → (∀ pin mask, i ≠ .attachf pin mask) → (∀ c, i ≠ .detach c) →
      t.assignedCount = s.assignedCount)

/-! ### Preparation (41_queue_builder.md, 42_incremental_updater.md, 45_bitmap_optimizer.md) -/

/-- R160 to R163, R236, with start and restart of R213 and R215: PREP.REBUILD writes one entry per assigned channel,
sorted by width and then id (D17, log 14), annotated with the pins of the Channel Table (R237), the sentinel with the
current period, and the eight set bitmaps, into the non-active buffer, and publishes it. That start and restart set `late`,
the model's own field, to 0 is the model's choice (log 6). -/
def Obligations.RebuildResult : Prop :=
  ∀ s : State, s.Shape →
    (∀ (id : U8) (p : Nat), (s.clearOf id).getLsbD p = true ↔
      ∃ c, s.ch[id.toNat]? = some c ∧ c.pin ≠ unassigned ∧ c.pin.toNat = p) ∧
    ∃ (es : List Entry) (st : Vector Pins 8),
    es.Pairwise (fun x y => x.pw < y.pw ∨ (x.pw = y.pw ∧ x.id < y.id)) ∧
    (∀ x, x ∈ es ↔ ∃ c, s.ch[x.id.toNat]? = some c ∧ c.pin ≠ unassigned ∧ x = ⟨x.id, c.pw, 0, 1⟩) ∧
    (∀ (k : Fin 8) (p : Nat), (st.get k).getLsbD p = true ↔
      ∃ c ∈ s.ch, c.pin ≠ unassigned ∧ c.mask.getLsbD k = true ∧ c.pin.toNat = p) ∧
    let q : Buffer :=
      ⟨annotate s.cfg.join s.clearOf es ++ ⟨endId, s.periodWidth, 0, 1⟩ :: s.idleBuf.e.drop (es.length + 1), st⟩
    exec .prepRebuild s = .next { s with
      q0 := if s.active then q else s.q0
      q1 := if s.active then s.q1 else q
      switchPending := true
      plan := ⟨0, false, false, false, 0, 0⟩
      phase := if s.plan.start || s.plan.resync then 0 else s.phase
      cursor := if s.plan.start || s.plan.resync then 0 else s.cursor
      timerCnt := if s.plan.start || s.plan.resync then 0 else s.timerCnt
      late := if s.plan.start || s.plan.resync then 0 else s.late
      slot := if s.plan.start then 0 else s.slot
      asserted := if s.plan.start then 0 else s.asserted
      timerRun := if s.plan.start then true else s.timerRun }

/-- R238: annotate keeps ids and widths; the skip count of an entry runs to the end of its group, and its clear bitmap is
the pins of the entries from itself to there. In a sorted list the neighbours inside a group differ by less than JOIN, and
the first entry of the next group is at least JOIN wider than the last one of this group. -/
def Obligations.AnnotateGroups : Prop :=
  ∀ (join : Nat) (pinsOf : U8 → Pins) (es : List Entry), es.length ≤ 255 →
    let rs := annotate join pinsOf es
    rs.map (fun x => (x.id, x.pw)) = es.map (fun x => (x.id, x.pw)) ∧
    (∀ k x, rs[k]? = some x →
      1 ≤ x.skip.toNat ∧ k + x.skip.toNat ≤ rs.length ∧
      (∀ m, k < m → m < k + x.skip.toNat → isHead join rs m = false) ∧
      (k + x.skip.toNat < rs.length → isHead join rs (k + x.skip.toNat) = true) ∧
      ∀ p, x.clear.getLsbD p = true ↔
        ∃ m y, k ≤ m ∧ m < k + x.skip.toNat ∧ rs[m]? = some y ∧ (pinsOf y.id).getLsbD p = true) ∧
    (es.Pairwise (fun a b => a.pw ≤ b.pw) → ∀ (k m : Nat) (x y z : Entry), rs[k]? = some x → k ≤ m →
      rs[m]? = some y → rs[m + 1]? = some z →
      (m + 1 < k + x.skip.toNat → z.pw.toNat < y.pw.toNat + join) ∧
      (m + 1 = k + x.skip.toNat → y.pw.toNat + join ≤ z.pw.toNat))

/-- R239: in a sorted, annotated queue the next group begins at least JOIN after an entry of this one. -/
def Obligations.GroupSpacing : Prop :=
  ∀ (join : Nat) (pinsOf : U8 → Pins) (es : List Entry), es.length ≤ 255 →
    es.Pairwise (fun x y => x.pw ≤ y.pw) →
    ∀ (k : Nat) (x y : Entry), (annotate join pinsOf es)[k]? = some x → (annotate join pinsOf es)[k + x.skip.toNat]? = some y →
      x.pw.toNat + join ≤ y.pw.toNat

/-- R175 to R180, R182: PREP.INCR on a sorted source whose entry of the channel is `x`: only that entry moves, past the
wider entries on its left or the narrower ones on its right and past no equal one; the queue is annotated again, the
sentinel, what follows it and the set bitmaps are copied, and the result is published. The clear bitmap of one channel is
its pin in the Channel Table (R237). -/
def Obligations.IncrResult : Prop :=
  ∀ (s : State) (left right tl : List Entry) (x z : Entry),
    s.incrSource.e = left ++ x :: right ++ z :: tl → z.id = endId →
    (∀ y ∈ left ++ x :: right, y.id ≠ endId ∧ y.id.toNat < s.cfg.n) →
    x.id = s.plan.ch → (∀ y ∈ left, y.id ≠ s.plan.ch) →
    (left ++ right).Pairwise (fun a b => a.pw ≤ b.pw) →
    (∀ (id : U8) (p : Nat), (s.clearOf id).getLsbD p = true ↔
      ∃ c, s.ch[id.toNat]? = some c ∧ c.pin ≠ unassigned ∧ c.pin.toNat = p) ∧
    ∃ a b, a ++ b = left ++ right ∧
      (a ++ { x with pw := s.plan.pw } :: b).Pairwise (fun a b => a.pw ≤ b.pw) ∧
      (∀ y ∈ left.drop a.length, s.plan.pw < y.pw) ∧
      (∀ y ∈ right.take (a.length - left.length), y.pw < s.plan.pw) ∧
      let q : Buffer :=
        ⟨annotate s.cfg.join s.clearOf (a ++ { x with pw := s.plan.pw } :: b) ++ z :: tl, s.incrSource.set⟩
      exec .prepIncr s = .next { s with
        q0 := if s.active then q else s.q0
        q1 := if s.active then s.q1 else q
        switchPending := true
        plan := ⟨0, false, false, false, 0, 0⟩ }

/-- R181: where the channel has no entry in the source buffer, PREP.INCR does what PREP.REBUILD does after the copy, with
start and resync 0. -/
def Obligations.IncrFallsBackToRebuild : Prop :=
  ∀ s : State, s.incrSource.rest ≠ [] → (∀ y ∈ s.incrSource.live, y.id ≠ s.plan.ch ∧ y.id.toNat < s.cfg.n) →
    ∃ t, exec .prepIncr s = .next t ∧
      exec .prepRebuild { s with
        q0 := if s.active then s.incrSource else s.q0
        q1 := if s.active then s.q1 else s.incrSource
        plan := { s.plan with start := false, resync := false } } = .next t

/-- R183: from an invariant state that owes an incremental update, the update and a full rebuild differ only in the
non-active buffer, and there only in the order of equal widths and in the entries that are no group head. -/
def Obligations.IncrEqualsRebuild : Prop :=
  ∀ s : State, s.Inv → s.plan.kind = 2 →
    ∃ t u, exec .prepIncr s = .next t ∧ exec .prepRebuild s = .next u ∧
      { t with q0 := u.q0, q1 := u.q1 } = u ∧ t.activeBuf = u.activeBuf ∧
      (t.idleBuf.live.map (fun x => (x.id, x.pw))).Perm (u.idleBuf.live.map (fun x => (x.id, x.pw))) ∧
      t.idleBuf.live.map Entry.pw = u.idleBuf.live.map Entry.pw ∧
      t.idleBuf.rest.head? = u.idleBuf.rest.head? ∧ t.idleBuf.set = u.idleBuf.set ∧
      (∀ k x y, t.idleBuf.live[k]? = some x → u.idleBuf.live[k]? = some y →
        isHead s.cfg.join t.idleBuf.live k = isHead s.cfg.join u.idleBuf.live k ∧
        (isHead s.cfg.join t.idleBuf.live k = true → x.clear = y.clear ∧ x.skip = y.skip)) ∧
      ((t.idleBuf.live.map Entry.pw).Nodup → t.idleBuf.live = u.idleBuf.live)

/-- R76: a preparation that neither starts nor restarts the timer commutes with the tick and with every expiry step but
the commit point. -/
def Obligations.PreparationCommutes : Prop :=
  ∀ (s a b : State) (m : Move), m = .tick ∨ (m = .expire ∧ s.phase ≠ 1) →
    s.plan.start = false → s.plan.resync = false →
    s.perform m = .next a → s.perform .prepare = .next b →
    ∃ c, a.perform .prepare = .next c ∧ b.perform m = .next c

/-! ### The sequencer (44_sequencer.md, 43_switch_controller.md) -/

/-- R208: EXPIRE.ALL_HIGH. That `late`, the model's own field, becomes 0 is the model's choice (log 6). -/
def Obligations.AllHighResult : Prop :=
  ∀ (s : State) (m : Pins), (if s.active then s.q1 else s.q0).set[s.slot.toNat]? = some m →
    exec .expireAllHigh s = .next { s with
      gpioOut := s.gpioOut ||| m
      asserted := s.asserted ||| m
      slot := s.slot + 1
      timerCnt := BitVec.ofNat 16 s.cfg.minPulse
      late := 0
      phase := 1 }

/-- R209 with commit of R193, drain of R210 and end_of_queue of R211: EXPIRE.AWAIT_COMMIT on an empty queue, with a first
width above MIN_PULSE, and with the fall-through into the drain action, `x` being the first entry of the committed
buffer. That `late`, the model's own field, becomes 0 is the model's choice (log 6). -/
def Obligations.AwaitCommitResult : Prop :=
  ∀ (s : State) (x : Entry),
    let side := s.active != s.switchPending
    let q := if side then s.q1 else s.q0
    q.e[0]? = some x →
    (x.id = endId → exec .expireAwaitCommit s = .next { s with
      switchPending := false
      active := side
      cursor := 0
      gpioOut := s.gpioOut &&& ~~~ s.asserted
      asserted := 0
      timerCnt := satsub x.pw s.minPulse
      late := 0
      phase := 0 }) ∧
    (x.id ≠ endId → s.minPulse < x.pw → exec .expireAwaitCommit s = .next { s with
      switchPending := false
      active := side
      cursor := 0
      timerCnt := x.pw - s.minPulse
      late := 0
      phase := 2 }) ∧
    (x.id ≠ endId → x.pw ≤ s.minPulse → ∀ y, q.e[x.skip.toNat]? = some y →
      exec .expireAwaitCommit s = .next (
        if y.id = endId then { s with
          switchPending := false
          active := side
          cursor := x.skip
          gpioOut := s.gpioOut &&& ~~~ x.clear &&& ~~~ s.asserted
          asserted := 0
          timerCnt := satsub y.pw x.pw
          late := 0
          phase := 0 }
        else { s with
          switchPending := false
          active := side
          cursor := x.skip
          gpioOut := s.gpioOut &&& ~~~ x.clear
          timerCnt := satsub y.pw x.pw
          late := 0
          phase := 2 }))

/-- R210 with end_of_queue of R211: EXPIRE.DRAINING, `x` being the entry under the cursor and `y` the one `skip`
further on. That `late`, the model's own field, becomes 0 is the model's choice (log 6). -/
def Obligations.DrainingResult : Prop :=
  ∀ (s : State) (x y : Entry), s.activeBuf.e[s.cursor.toNat]? = some x →
    s.activeBuf.e[s.cursor.toNat + x.skip.toNat]? = some y →
    exec .expireDraining s = .next (
      if y.id = endId then { s with
        cursor := s.cursor + x.skip
        gpioOut := s.gpioOut &&& ~~~ x.clear &&& ~~~ s.asserted
        asserted := 0
        timerCnt := satsub y.pw x.pw
        late := 0
        phase := 0 }
      else { s with
        cursor := s.cursor + x.skip
        gpioOut := s.gpioOut &&& ~~~ x.clear
        timerCnt := satsub y.pw x.pw
        late := 0
        phase := 2 })

/-- R195: after every AWAIT_COMMIT step nothing is pending, the active buffer has changed iff something was, and no
buffer is written. -/
def Obligations.CommitPoint : Prop :=
  ∀ s t : State, exec .expireAwaitCommit s = .next t →
    t.switchPending = false ∧ t.active = (s.active != s.switchPending) ∧ t.q0 = s.q0 ∧ t.q1 = s.q1

/-- R194, R48: what a commit makes active, from an invariant state, mirrors the Channel Table, and its widths are the
table's when no update is buffered. -/
def Obligations.CommitAdoptsLatest : Prop :=
  ∀ s t : State, s.Inv → s.switchPending = true → exec .expireAwaitCommit s = .next t →
    (t.activeBuf.live.map Entry.id).Perm t.assignedIds ∧ t.activeBuf.period = t.periodWidth ∧
    t.activeBuf.set = setBitmaps t.ch ∧
    (t.pendingUpdates = 0 → ∀ x ∈ t.activeBuf.live, x.pw = (t.channel x.id).pw)

/-- R39, R211, R303: an expiry step that ends the period leaves every pin low, where the high pins are all in
`asserted`. -/
def Obligations.PeriodEndsLow : Prop :=
  ∀ s t : State, s.gpioOut &&& ~~~ s.asserted = 0 → s.expiry = .next t → t.phase = 0 →
    t.gpioOut = 0 ∧ t.asserted = 0

/-- U5 with R32, R63, R98 and R212: the states that no rule reaches stop by name, and so does a machine whose parameters are
no configuration (U13). The model's choice, read from the spec by inference: which fault each such state raises, and that an
update source without a sentinel, of which U5 has no sentence, is one of them (log 8); that defaults beyond 16 bits are no
configuration, and that `step` refuses them by name (log 9). -/
def Obligations.UnreachableStatesStop : Prop :=
  (∀ s : State, s.cfg.valid = false → step s = .refused .badConfig) ∧
  (∀ (s : State) (ms : List Move), s.cfg.valid = true → s.script = .expire :: ms → s.timerRun = true →
    s.timerCnt = 0 → s.phase = 3 → step s = .fault .reservedPhase) ∧
  (∀ (s : State) (ms : List Move), s.cfg.valid = true → s.script = .prepare :: ms → s.plan.kind = 3 →
    step s = .fault .reservedPlanKind) ∧
  (∀ s : State, s.activeBuf.e[s.cursor.toNat]? = none → exec .expireDraining s = .fault .cursorOutOfRange) ∧
  (∀ (s : State) (x : Entry), s.activeBuf.e[s.cursor.toNat]? = some x →
    s.activeBuf.e[s.cursor.toNat + x.skip.toNat]? = none → exec .expireDraining s = .fault .cursorOutOfRange) ∧
  (∀ s : State, (s.buf (s.active != s.switchPending)).e = [] →
    exec .expireAwaitCommit s = .fault .cursorOutOfRange) ∧
  (∀ s : State, s.incrSource.rest = [] → exec .prepIncr s = .fault .noSentinel) ∧
  (∀ (s : State) (x : Entry), s.incrSource.rest ≠ [] → x ∈ s.incrSource.live → s.cfg.n ≤ x.id.toNat →
    exec .prepIncr s = .fault .entryIdOutOfRange)

/-! ### The step (00_scope.md R17, 30_encoding.md R106, 44_sequencer.md R206, 70_reset_and_hazards.md R280) -/

/-- R206: the tick. -/
def Obligations.TickResult : Prop :=
  ∀ (s : State) (ms : List Move), s.cfg.valid = true → s.script = .tick :: ms →
    ¬ (s.timerRun = true ∧ s.timerCnt = 0) → step s = .next { s with
      script := ms
      now := s.now + 1
      timerCnt := if s.timerRun then s.timerCnt - 1 else s.timerCnt }

/-- U3 as the model reads it (logs 4 and 6, the model's choice): while an expiry is due, the tick passes as long as the
lateness is below LAT_MAX, and is skipped from then on. -/
def Obligations.LateTickResult : Prop :=
  ∀ (s : State) (ms : List Move), s.cfg.valid = true → s.script = .tick :: ms → s.timerRun = true → s.timerCnt = 0 →
    step s = .next (
      if s.late < s.cfg.latMax then { s with script := ms, now := s.now + 1, late := s.late + 1 }
      else { s with script := ms })

/-- R280: RESET, at any time, gives every piece of the block's state its reset value. -/
def Obligations.ResetResult : Prop :=
  ∀ (s : State) (ms : List Move), s.cfg.valid = true → s.script = .reset :: ms →
    ∃ t, step s = .next t ∧
      t.ch = List.replicate s.cfg.n ⟨0xFF, 0, 0xFF⟩ ∧
      t.periodWidth = BitVec.ofNat 16 s.cfg.defaultPeriod ∧ t.pendingUpdates = 0 ∧
      t.q0 = ⟨List.replicate (s.cfg.n + 1) ⟨0xFF, BitVec.ofNat 16 s.cfg.defaultPeriod, 0, 1⟩, Vector.replicate 8 0⟩ ∧
      t.q1 = ⟨List.replicate (s.cfg.n + 1) ⟨0xFF, BitVec.ofNat 16 s.cfg.defaultPeriod, 0, 1⟩, Vector.replicate 8 0⟩ ∧
      t.active = false ∧ t.switchPending = false ∧ t.phase = 0 ∧ t.cursor = 0 ∧ t.slot = 0 ∧ t.asserted = 0 ∧
      t.timerRun = false ∧ t.timerCnt = 0 ∧ t.gpioOut = 0 ∧ t.plan = ⟨0, false, false, false, 0, 0⟩ ∧ t.rsp = 0 ∧
      t.now = 0

/-- The machine's reset state: every value of R53, in the reference configuration of R13. That `State.reset` takes this
configuration, and the values of `late`, `script`, `draws` and `prepWait`, are the model's choice (logs 1 and 18). -/
def Obligations.ResetStateValues : Prop :=
  State.reset.cfg = ⟨8, 32, 500, 4, 1000, 2500, 0⟩ ∧ State.reset.ch = List.replicate 8 ⟨0xFF, 0, 0xFF⟩ ∧
  State.reset.periodWidth = 2500 ∧ State.reset.pendingUpdates = 0 ∧
  State.reset.q0 = ⟨List.replicate 9 ⟨0xFF, 2500, 0, 1⟩, Vector.replicate 8 0⟩ ∧ State.reset.q1 = State.reset.q0 ∧
  State.reset.active = false ∧ State.reset.switchPending = false ∧ State.reset.phase = 0 ∧ State.reset.cursor = 0 ∧
  State.reset.slot = 0 ∧ State.reset.asserted = 0 ∧ State.reset.timerRun = false ∧ State.reset.timerCnt = 0 ∧
  State.reset.gpioOut = 0 ∧ State.reset.plan = ⟨0, false, false, false, 0, 0⟩ ∧ State.reset.rsp = 0 ∧
  State.reset.now = 0 ∧ State.reset.late = 0 ∧ State.reset.script = [] ∧ State.reset.draws = 0 ∧
  State.reset.prepWait = none

/-- A step runs the decoded instruction: the accepted word's (R106, R92), the owed preparation's (R98), the due phase's
(R207, R97). -/
def Obligations.StepRunsDecoded : Prop :=
  ∀ (s : State) (ms : List Move) (i : Instr), s.cfg.valid = true →
    (∀ w, s.script = .command w :: ms → s.plan.kind = 0 → decode (.cmd w) = .ok i →
      step s = exec i { s with script := ms }) ∧
    (s.script = .prepare :: ms → decode (.plan s.plan.kind) = .ok i → step s = exec i { s with script := ms }) ∧
    (s.script = .expire :: ms → s.timerRun = true → s.timerCnt = 0 → decode (.phase s.phase) = .ok i →
      step s = exec i { s with script := ms })

/-- The instruction of a table row, placed by `withFetchWord`, is the one that the very next step runs (log 11: the model's
choice of how a program comes to run). -/
def Obligations.FetchWordRuns : Prop :=
  ∀ (s : State) (nbits w : Nat) (i : Instr), s.cfg.valid = true → decodeTableWord nbits w = some i →
    step (s.withFetchWord nbits w) = exec i { s.withFetchWord nbits w with script := s.script }

/-- R106 and R17: a word presented while the engine is busy, a preparation that is not owed and an expiry that is not due
have no effect (that the move is then dropped is log 4). -/
def Obligations.DisabledMoveHasNoEffect : Prop :=
  ∀ (s : State) (ms : List Move), s.cfg.valid = true →
    (∀ w, s.script = .command w :: ms → s.plan.kind ≠ 0 → step s = .next { s with script := ms }) ∧
    (s.script = .prepare :: ms → s.plan.kind = 0 → step s = .next { s with script := ms }) ∧
    (s.script = .expire :: ms → ¬ (s.timerRun = true ∧ s.timerCnt = 0) → step s = .next { s with script := ms })

/-- R17: with no move scripted, the step is one of the block's own enabled moves, whichever values the free schedule has
(log 5). -/
def Obligations.UnscriptedStepIsEnabled : Prop :=
  ∀ s : State, s.cfg.valid = true → s.script = [] →
    ∃ m d w, ((m = .prepare ∧ s.plan.kind ≠ 0) ∨ (m = .expire ∧ s.timerRun = true ∧ s.timerCnt = 0) ∨
        (m = .tick ∧ (¬ (s.timerRun = true ∧ s.timerCnt = 0) ∨ s.late < s.cfg.latMax))) ∧
      step s = State.perform { s with draws := d, prepWait := w } m

/-- R17, D41: phase B of a command is eventually taken. From an invariant state that owes a preparation, whatever moves are
scripted and whichever values the free schedule has (log 5), finitely many steps later it is still owed unchanged and the
next step takes it, or resets the block; after that step none is owed. -/
def Obligations.PreparationIsTaken : Prop :=
  ∀ s : State, s.Inv → s.plan.kind ≠ 0 →
    ∃ (k : Nat) (t u : State), Host.Core.run Sys2Proof.core k s = .next t ∧ t.plan = s.plan ∧
      (t.nextMove.1 = .prepare ∨ t.nextMove.1 = .reset) ∧ step t = .next u ∧
      u.plan = ⟨0, false, false, false, 0, 0⟩

/-- R304, R45: no instruction takes time or touches the parameters, the moves to come or the schedule. -/
def Obligations.InstructionsTakeNoTime : Prop :=
  ∀ (i : Instr) (s t : State), exec i s = .next t →
    t.now = s.now ∧ t.cfg = s.cfg ∧ t.script = s.script ∧ t.draws = s.draws ∧ t.prepWait = s.prepWait

/-! ### Invariants (10_state.md section 7) -/

/-- R46 to R52 hold after reset, in every configuration. -/
def Obligations.ResetSatisfiesInv : Prop := ∀ c : Config, c.valid = true → (State.resetWith c).Inv

/-- R46 to R52 are kept by every step from every state that has them. -/
def Obligations.StepKeepsInv : Prop := ∀ s t : State, s.Inv → step s = .next t → t.Inv

/-- From an invariant state no step stops: no fault, no refusal (R136, R216, U5). -/
def Obligations.InvStepGoes : Prop := ∀ s : State, s.Inv → s.Goes

/-- From reset, in every configuration and under every schedule of commands, preparations, ticks, expiries and resets, the
machine never stops and the invariant always holds. -/
def Obligations.EveryRunIsSafe : Prop :=
  ∀ (c : Config) (ms : List Move) (d k : Nat) (w : Option Nat), c.valid = true →
    ∃ t : State, Host.Core.run Sys2Proof.core k { State.resetWith c with script := ms, draws := d, prepWait := w } =
      .next t ∧ t.Inv

/-- R49, R22: no two assigned channels share a pin, and assigned pins exist. -/
def Obligations.PinsStayDistinct : Prop := ∀ s t : State, s.PinsOk → step s = .next t → t.PinsOk

/-- R23, R25, R121: the period stays legal and every assigned width inside its band. -/
def Obligations.WidthsStayInBand : Prop := ∀ s t : State, s.BandOk → step s = .next t → t.BandOk

/-! ### Rules about the whole machine -/

/-- R34, R193, R198: `active` changes only at a commit point with a swap pending, or to 0 by RESET or by a DETACH that stops
the timer. -/
def Obligations.ActiveChangesOnlyAtCommit : Prop :=
  ∀ s t : State, step s = .next t → t.active ≠ s.active →
    (s.nextMove.1 = .expire ∧ s.phase = 1 ∧ s.switchPending = true ∧ t.switchPending = false) ∨
    (t.active = false ∧ t.timerRun = false ∧ (s.nextMove.1 = .reset ∨
      ∃ w c, s.nextMove.1 = .command w ∧ decode (.cmd w) = .ok (.detach c)))

/-- R66: while the timer runs the command engine leaves the active buffer alone, unless it stops the timer in that step;
the sequencer and the tick write no queue and no Channel Table field. -/
def Obligations.BufferOwnership : Prop :=
  ∀ (s t : State) (m : Move), s.perform m = .next t →
    ((m = .prepare ∨ ∃ w, m = .command w) → s.timerRun = true → t.timerRun = true →
      t.active = s.active ∧ t.activeBuf = s.activeBuf) ∧
    ((m = .expire ∨ m = .tick) → t.q0 = s.q0 ∧ t.q1 = s.q1 ∧ t.ch = s.ch)

/-- R73: the sequencer's steps do not depend on the Channel Table, the period register, the count of buffered updates, the
owed preparation or the response. -/
def Obligations.SequencerIgnoresTable : Prop :=
  ∀ (s t : State) (cs : List Channel) (p : U16) (u : U8) (pl : Plan) (r : U32), s.expiry = .next t →
    State.expiry { s with ch := cs, periodWidth := p, pendingUpdates := u, plan := pl, rsp := r } =
      .next { t with ch := cs, periodWidth := p, pendingUpdates := u, plan := pl, rsp := r }

/-- R46: the sequencer's steps do not depend on the non-active buffer, unless they commit it. -/
def Obligations.SequencerIgnoresIdleBuffer : Prop :=
  ∀ (s t : State) (q : Buffer), ¬ (s.phase = 1 ∧ s.switchPending = true) → s.expiry = .next t →
    State.expiry (s.setBuf (!s.active) q) = .next (t.setBuf (!s.active) q)

/-- R42, R208: a pin changes only by an expiry step, by RESET or by a DETACH that stops the timer, and rises only at a period
start, from the set bitmap of the active buffer's slot. -/
def Obligations.PinChanges : Prop :=
  ∀ s t : State, step s = .next t →
    (t.gpioOut ≠ s.gpioOut → s.nextMove.1 = .expire ∨ (t.timerRun = false ∧ (s.nextMove.1 = .reset ∨
      ∃ w c, s.nextMove.1 = .command w ∧ decode (.cmd w) = .ok (.detach c)))) ∧
    ∀ p, s.gpioOut.getLsbD p = false → t.gpioOut.getLsbD p = true →
      s.nextMove.1 = .expire ∧ s.phase = 0 ∧ (s.activeBuf.set.get s.slot.toFin).getLsbD p = true

/-- R40, R213, R214: the timer is started only by the preparation that a first attach left behind, and stopped only by
DETACH or reset. -/
def Obligations.TimerStartsAndStops : Prop :=
  ∀ s t : State, step s = .next t → t.timerRun ≠ s.timerRun →
    (t.timerRun = true ∧ s.nextMove.1 = .prepare ∧ s.plan.kind = 1 ∧ s.plan.start = true) ∨
    (t.timerRun = false ∧ (s.nextMove.1 = .reset ∨
      ∃ w c, s.nextMove.1 = .command w ∧ decode (.cmd w) = .ok (.detach c)))

/-- R134: updates become buffered only by a buffered SET_PULSE that changes a width. -/
def Obligations.BufferedUpdatesBegin : Prop :=
  ∀ s t : State, step s = .next t → s.pendingUpdates = 0 → t.pendingUpdates ≠ 0 →
    ∃ w c v r, s.nextMove.1 = .command w ∧ decode (.cmd w) = .ok (.setPulse true c v) ∧ s.ValidChannel c r ∧
      s.clampw v ≠ r.pw

/-- R217: an undisturbed period has the length frozen in the buffer that its commit point makes active, exactly one ALL_HIGH
step, and leaves every pin low and nothing pending. -/
def Obligations.PeriodLength : Prop :=
  ∀ s : State, s.QuietPeriodStart →
    ∃ (k : Nat) (t : State), Host.Core.run Sys2Proof.core k s = .next t ∧ 0 < k ∧
      t.now = s.now + s.latest.period.toNat ∧ t.phase = 0 ∧ t.due = true ∧ t.slot = s.slot + 1 ∧
      t.activeBuf = s.latest ∧ t.switchPending = false ∧ t.gpioOut = 0 ∧ t.ch = s.ch ∧
      ∀ (j : Nat) (u : State), 0 < j → j < k → Host.Core.run Sys2Proof.core j s = .next u →
        ¬ (u.phase = 0 ∧ u.due = true)

/-- R217, R220: the pin waveform of an undisturbed period. `d` microseconds after its start, and once the expiry steps of
that microsecond are taken, a pin is high iff it was driven high at the start, no group that clears it has come, and
the last falling edge has not come. -/
def Obligations.PinWaveform : Prop :=
  ∀ (s : State) (d : Nat), s.QuietPeriodStart → d < s.latest.period.toNat →
    ∃ (k : Nat) (t : State), Host.Core.run Sys2Proof.core k s = .next t ∧ t.now = s.now + d ∧ t.due = false ∧
      ∀ p, t.gpioOut.getLsbD p = true ↔
        (s.gpioOut.getLsbD p = true ∨ (s.activeBuf.set.get s.slot.toFin).getLsbD p = true) ∧
        d < s.latest.lastFall s.cfg ∧
        ∀ i x, s.latest.live[i]? = some x → isHead s.cfg.join s.latest.live i = true →
          x.clear.getLsbD p = true → d < x.pw.toNat

end Claims
end

