-- ==== Sys2Proof/Laws/Encoding.lean ====
section
/-! SUPPORT. The fields of a command word (30_encoding.md R90): a word is its five fields and nothing else, the masks of R92
act on each field alone, and an assembled word has the fields it was assembled from. -/

namespace Sys2Proof

/-- A 32-bit word put together from its five fields (R90). -/
abbrev joinFields (op : BitVec 4) (b : BitVec 1) (z : BitVec 3) (a : U8) (d : U16) : U32 := op ++ b ++ z ++ a ++ d

theorem cmdWord_eq (op : BitVec 4) (b : BitVec 1) (a : U8) (d : U16) : cmdWord op b a d = joinFields op b 0 a d := rfl

/-- A word is its five fields (R90). -/
theorem word_eq_fields (w : U32) : w = joinFields (fieldOp w) (fieldB w) (fieldZ w) (fieldA w) (fieldD w) := by
  unfold joinFields fieldOp fieldB fieldZ fieldA fieldD
  rw [BitVec.extractLsb'_append_extractLsb'_eq_extractLsb' (by rfl),
    BitVec.extractLsb'_append_extractLsb'_eq_extractLsb' (by rfl),
    BitVec.extractLsb'_append_extractLsb'_eq_extractLsb' (by rfl),
    BitVec.extractLsb'_append_extractLsb'_eq_extractLsb' (by rfl)]
  simp

@[simp] theorem fieldOp_join (op : BitVec 4) (b : BitVec 1) (z : BitVec 3) (a : U8) (d : U16) :
    fieldOp (joinFields op b z a d) = op := by
  unfold fieldOp joinFields
  ext i hi
  simp only [BitVec.getElem_extractLsb', BitVec.getLsbD_append]
  have h1 : ¬ 28 + i < 16 := by omega
  have h2 : ¬ 28 + i - 16 < 8 := by omega
  have h3 : ¬ 28 + i - 16 - 8 < 3 := by omega
  have h4 : ¬ 28 + i - 16 - 8 - 3 < 1 := by omega
  have h5 : 28 + i - 16 - 8 - 3 - 1 = i := by omega
  simp [h1, h2, h3, h4, h5, BitVec.getLsbD_eq_getElem hi]

@[simp] theorem fieldB_join (op : BitVec 4) (b : BitVec 1) (z : BitVec 3) (a : U8) (d : U16) :
    fieldB (joinFields op b z a d) = b := by
  unfold fieldB joinFields
  ext i hi
  simp only [BitVec.getElem_extractLsb', BitVec.getLsbD_append]
  have h1 : ¬ 27 + i < 16 := by omega
  have h2 : ¬ 27 + i - 16 < 8 := by omega
  have h3 : ¬ 27 + i - 16 - 8 < 3 := by omega
  have h5 : 27 + i - 16 - 8 - 3 = i := by omega
  simp only [h1, h2, h3, h5, hi, if_false, if_true, BitVec.getLsbD_eq_getElem hi]

@[simp] theorem fieldZ_join (op : BitVec 4) (b : BitVec 1) (z : BitVec 3) (a : U8) (d : U16) :
    fieldZ (joinFields op b z a d) = z := by
  unfold fieldZ joinFields
  ext i hi
  simp only [BitVec.getElem_extractLsb', BitVec.getLsbD_append]
  have h1 : ¬ 24 + i < 16 := by omega
  have h2 : ¬ 24 + i - 16 < 8 := by omega
  have h5 : 24 + i - 16 - 8 = i := by omega
  simp only [h1, h2, h5, hi, if_false, if_true, BitVec.getLsbD_eq_getElem hi]

@[simp] theorem fieldA_join (op : BitVec 4) (b : BitVec 1) (z : BitVec 3) (a : U8) (d : U16) :
    fieldA (joinFields op b z a d) = a := by
  unfold fieldA joinFields
  ext i hi
  simp only [BitVec.getElem_extractLsb', BitVec.getLsbD_append]
  have h1 : ¬ 16 + i < 16 := by omega
  have h5 : 16 + i - 16 = i := by omega
  simp only [h1, h5, hi, if_false, if_true, BitVec.getLsbD_eq_getElem hi]

@[simp] theorem fieldD_join (op : BitVec 4) (b : BitVec 1) (z : BitVec 3) (a : U8) (d : U16) :
    fieldD (joinFields op b z a d) = d := by
  unfold fieldD joinFields
  exact BitVec.extractLsb'_append_eq_right

/-- Two words are equal iff their fields are. -/
theorem join_inj (op op' : BitVec 4) (b b' : BitVec 1) (z z' : BitVec 3) (a a' : U8) (d d' : U16) :
    joinFields op b z a d = joinFields op' b' z' a' d' ↔ op = op' ∧ b = b' ∧ z = z' ∧ a = a' ∧ d = d' := by
  constructor
  · intro h
    have h1 := congrArg fieldOp h
    have h2 := congrArg fieldB h
    have h3 := congrArg fieldZ h
    have h4 := congrArg fieldA h
    have h5 := congrArg fieldD h
    rw [fieldOp_join, fieldOp_join] at h1
    rw [fieldB_join, fieldB_join] at h2
    rw [fieldZ_join, fieldZ_join] at h3
    rw [fieldA_join, fieldA_join] at h4
    rw [fieldD_join, fieldD_join] at h5
    exact ⟨h1, h2, h3, h4, h5⟩
  · rintro ⟨rfl, rfl, rfl, rfl, rfl⟩
    rfl

/-- A mask acts on each field alone (R92). -/
theorem join_and (op op' : BitVec 4) (b b' : BitVec 1) (z z' : BitVec 3) (a a' : U8) (d d' : U16) :
    joinFields op b z a d &&& joinFields op' b' z' a' d' =
      joinFields (op &&& op') (b &&& b') (z &&& z') (a &&& a') (d &&& d') := by
  refine (BitVec.and_append (x₁ := op ++ b ++ z ++ a) (y₁ := d)).trans ?_
  rw [BitVec.and_append, BitVec.and_append, BitVec.and_append]

/-- A 16-bit operand is its two halves. -/
theorem operand_halves (d : U16) : d = d.extractLsb' 8 8 ++ d.extractLsb' 0 8 := by
  rw [BitVec.extractLsb'_append_extractLsb'_eq_extractLsb' (by rfl)]
  simp

/-- The part of a mask operand that must be zero is the high half of `d` (R90). -/
theorem fieldDHigh_eq (w : U32) : fieldDHigh w = (fieldD w).extractLsb' 8 8 := by
  unfold fieldDHigh fieldD
  ext i hi
  simp

/-- The mask operand is the low half of `d` (R91). -/
theorem fieldMask_eq (w : U32) : fieldMask w = (fieldD w).extractLsb' 0 8 := by
  unfold fieldMask fieldD
  ext i hi
  simp

@[simp] theorem maskOperand_low (m : U8) : (m.setWidth 16).extractLsb' 0 8 = m := by
  ext i hi
  simp only [BitVec.getElem_extractLsb', BitVec.getLsbD_setWidth, Nat.zero_add, BitVec.getLsbD_eq_getElem hi]
  simp
  omega

@[simp] theorem maskOperand_high (m : U8) : (m.setWidth 16).extractLsb' 8 8 = 0 := by
  ext i hi
  simp

/-- An operand whose high half is zero is its mask, extended (R91). -/
theorem operand_of_high_zero (d : U16) (h : d.extractLsb' 8 8 = 0) : d = (d.extractLsb' 0 8).setWidth 16 := by
  have hz : ∀ m : U8, (0 : U8) ++ m = m.setWidth 16 := by
    intro m
    apply BitVec.eq_of_toNat_eq
    rw [BitVec.toNat_append]
    simp
    omega
  conv_lhs => rw [operand_halves d, h, hz]

/-- The mask of R92 for a mask operand tests the high half of `d`. -/
theorem operand_and_high (d : U16) : d &&& 0xFF00 = 0 ↔ d.extractLsb' 8 8 = 0 := by
  constructor
  · intro h
    have h8 := congrArg (BitVec.extractLsb' 8 8) h
    rw [BitVec.extractLsb'_and, show BitVec.extractLsb' 8 8 (0xFF00 : U16) = BitVec.allOnes 8 from rfl,
      BitVec.and_allOnes] at h8
    exact h8
  · intro h
    rw [operand_halves d, h, show (0xFF00 : U16) = (0xFF : U8) ++ (0 : U8) from rfl]
    refine BitVec.and_append.trans ?_
    simp

/-- A word matches a row iff each of its fields, masked, is the row's field (R92). -/
theorem covers_iff (w : U32) (op op' : BitVec 4) (b b' : BitVec 1) (z z' : BitVec 3) (a a' : U8) (d d' : U16) :
    w &&& joinFields op b z a d = joinFields op' b' z' a' d' ↔
      fieldOp w &&& op = op' ∧ fieldB w &&& b = b' ∧ fieldZ w &&& z = z' ∧ fieldA w &&& a = a' ∧ fieldD w &&& d = d' := by
  conv_lhs => rw [word_eq_fields w, join_and, join_inj]

end Sys2Proof
end

