-- ==== Sys2Proof/Laws/Table.lean ====
section
/-! SUPPORT. The Channel Table's shared operations: the two searches of ATTACH (R123, R132), the collection of the assigned
channels (R161), the clamp (R15), the set bitmaps (R236) and the clear bitmap of
a channel (R237). One lemma says what each can answer. -/

namespace Sys2Proof.Machine

theorem firstIndex_eq_none_iff (p : Channel → Bool) (cs : List Channel) :
    firstIndex p cs = none ↔ ∀ c ∈ cs, p c = false := by
  induction cs with
  | nil => simp [firstIndex]
  | cons c cs ih => by_cases h : p c <;> simp [firstIndex, h, ih]

/-- "The first channel slot" (R123): the index holds a match and no smaller index does. -/
theorem firstIndex_eq_some_iff (p : Channel → Bool) (cs : List Channel) (i : Nat) :
    firstIndex p cs = some i ↔
      (∃ c, cs[i]? = some c ∧ p c = true) ∧ ∀ j < i, ∀ d, cs[j]? = some d → p d = false := by
  induction cs generalizing i with
  | nil => simp [firstIndex]
  | cons c cs ih =>
    by_cases h : p c
    · cases i with
      | zero => simp [firstIndex, h]
      | succ i =>
        simp only [firstIndex, h, if_true, Option.some.injEq, Nat.zero_ne_add_one, false_iff, not_and]
        intro _ hall
        exact absurd (hall 0 (Nat.succ_pos i) c rfl) (by simp [h])
    · cases i with
      | zero => simp [firstIndex, h]
      | succ i =>
        simp only [firstIndex, h, Bool.false_eq_true, if_false, Option.map_eq_some_iff, Nat.add_right_cancel_iff,
          exists_eq_right, ih, List.getElem?_cons_succ]
        refine and_congr_right fun _ => ⟨fun hall j hj d hd => ?_, fun hall j hj d hd => ?_⟩
        · cases j with
          | zero => simp at hd; simpa [← hd] using h
          | succ j => exact hall j (by omega) d (by simpa using hd)
        · exact hall (j + 1) (by omega) d (by simpa using hd)

theorem lastIndex_eq_none_iff (p : Channel → Bool) (cs : List Channel) :
    lastIndex p cs = none ↔ ∀ c ∈ cs, p c = false := by
  induction cs with
  | nil => simp [lastIndex]
  | cons c cs ih =>
    cases hl : lastIndex p cs with
    | none => by_cases h : p c <;> simp [lastIndex, hl, h, ← ih]
    | some k =>
      have : ¬ ∀ d ∈ cs, p d = false := by rw [← ih, hl]; simp
      simp only [lastIndex, hl, List.mem_cons, forall_eq_or_imp, reduceCtorEq, false_iff, not_and]
      exact fun _ => this

/-- "The highest-index free slot" (R123, R132): the index holds a match and no larger index does. -/
theorem lastIndex_eq_some_iff (p : Channel → Bool) (cs : List Channel) (i : Nat) :
    lastIndex p cs = some i ↔
      (∃ c, cs[i]? = some c ∧ p c = true) ∧ ∀ j > i, ∀ d, cs[j]? = some d → p d = false := by
  induction cs generalizing i with
  | nil => simp [lastIndex]
  | cons c cs ih =>
    cases hl : lastIndex p cs with
    | none =>
      have hn := (lastIndex_eq_none_iff p cs).1 hl
      cases i with
      | zero =>
        by_cases h : p c
        · simp only [lastIndex, hl, h, if_true, List.getElem?_cons_zero, Option.some.injEq, exists_eq_left', true_and,
            true_iff]
          intro j hj d hd
          obtain ⟨j, rfl⟩ : ∃ k, j = k + 1 := ⟨j - 1, by omega⟩
          exact hn d (List.mem_of_getElem? (by simpa using hd))
        · simp [lastIndex, hl, h]
      | succ i =>
        have hr : ¬ ∃ d, cs[i]? = some d ∧ p d = true := by
          rintro ⟨d, hd, hp⟩
          exact absurd (hn d (List.mem_of_getElem? hd)) (by simp [hp])
        by_cases h : p c <;> simp [lastIndex, hl, h] <;>
          exact fun d hd hp => absurd ⟨d, hd, hp⟩ hr
    | some k =>
      cases i with
      | zero =>
        obtain ⟨⟨d, hd, hp⟩, _⟩ := (ih k).1 hl
        simp only [lastIndex, hl, Option.some.injEq, Nat.add_eq_zero_iff, Nat.one_ne_zero, and_false, false_iff, not_and]
        intro _ hall
        exact absurd (hall (k + 1) (by omega) d (by simpa using hd)) (by simp [hp])
      | succ i =>
        have hk := ih i
        rw [hl] at hk
        simp only [lastIndex, hl, Option.some.injEq, Nat.add_right_cancel_iff, List.getElem?_cons_succ] at hk ⊢
        rw [hk]
        refine and_congr_right fun _ => ⟨fun hall j hj d hd => ?_, fun hall j hj d hd => ?_⟩
        · obtain ⟨j, rfl⟩ : ∃ k, j = k + 1 := ⟨j - 1, by omega⟩
          exact hall j (by omega) d (by simpa using hd)
        · exact hall (j + 1) (by omega) d (by simpa using hd)

/-- What the collection holds (R161): the entry of every assigned channel, and nothing else. -/
theorem mem_collectFrom (x : Entry) (i : Nat) (cs : List Channel) :
    x ∈ collectFrom i cs ↔ ∃ (k : Nat) (c : Channel), cs[k]? = some c ∧ c.assigned = true ∧ x = c.toEntry (i + k) := by
  induction cs generalizing i with
  | nil => simp [collectFrom]
  | cons c cs ih =>
    have step : (∃ (k : Nat) (d : Channel), (c :: cs)[k]? = some d ∧ d.assigned = true ∧ x = d.toEntry (i + k)) ↔
        (c.assigned = true ∧ x = c.toEntry i) ∨
        ∃ (k : Nat) (d : Channel), cs[k]? = some d ∧ d.assigned = true ∧ x = d.toEntry (i + 1 + k) := by
      constructor
      · rintro ⟨k, d, hd, ha, rfl⟩
        cases k with
        | zero => simp at hd; subst hd; exact .inl ⟨ha, rfl⟩
        | succ k => exact .inr ⟨k, d, by simpa using hd, ha, by rw [Nat.add_right_comm, Nat.add_assoc]⟩
      · rintro (⟨ha, rfl⟩ | ⟨k, d, hd, ha, rfl⟩)
        · exact ⟨0, c, rfl, ha, rfl⟩
        · exact ⟨k + 1, d, by simpa using hd, ha, by rw [Nat.add_right_comm, Nat.add_assoc]⟩
    rw [step]
    by_cases h : c.assigned <;> simp [collectFrom, h, ih]

theorem collectFrom_length_le (i : Nat) (cs : List Channel) : (collectFrom i cs).length ≤ cs.length := by
  induction cs generalizing i with
  | nil => simp [collectFrom]
  | cons c cs ih =>
    have := ih (i + 1)
    by_cases h : c.assigned <;> simp [collectFrom, h] <;> omega

/-- The ids of the collection rise strictly (R161), for as many channels as an id can number. -/
theorem collectFrom_ids_sorted (i : Nat) (cs : List Channel) (h : i + cs.length ≤ 256) :
    (collectFrom i cs).Pairwise (fun x y => x.id.toNat < y.id.toNat) := by
  induction cs generalizing i with
  | nil => simp [collectFrom]
  | cons c cs ih =>
    have hl : i + 1 + cs.length ≤ 256 := by simp only [List.length_cons] at h; omega
    have ht := ih (i + 1) hl
    by_cases ha : c.assigned
    · simp only [collectFrom, ha, if_true, List.pairwise_cons]
      refine ⟨fun y hy => ?_, ht⟩
      obtain ⟨k, d, hd, -, rfl⟩ := (mem_collectFrom y (i + 1) cs).1 hy
      have hk : k < cs.length := (List.getElem?_eq_some_iff.1 hd).1
      simp only [Channel.toEntry, BitVec.toNat_ofNat]
      omega
    · simpa [collectFrom, ha] using ht

/-- The clamp answers a value of the band when the band is not empty (R15, R121). -/
theorem clamp_mem (v lo hi : Nat) (h : lo ≤ hi) : lo ≤ clamp v lo hi ∧ clamp v lo hi ≤ hi := by
  unfold clamp
  split
  · omega
  · split <;> omega

/-- A value of the band is its own clamp (R126: the comparison is made after clamping). -/
theorem clamp_of_mem (v lo hi : Nat) (h : lo ≤ v) (h' : v ≤ hi) : clamp v lo hi = v := by
  unfold clamp
  split
  · omega
  · split <;> omega

theorem clamp_eq_max_min (v lo hi : Nat) (h : lo ≤ hi) : clamp v lo hi = max lo (min v hi) := by
  unfold clamp
  split
  · omega
  · split <;> omega

theorem setBitmap_foldl_getLsbD (chs : List Channel) (k p : Nat) (m : Pins) :
    (chs.foldl (fun m c => m ||| c.slotBits k) m).getLsbD p =
      (m.getLsbD p || chs.any (fun c => (c.slotBits k).getLsbD p)) := by
  induction chs generalizing m with
  | nil => simp
  | cons c cs ih => simp [ih, Bool.or_assoc]

/-- A pin is in the set bitmap of a slot iff some channel contributes it (R236). -/
theorem setBitmap_getLsbD (chs : List Channel) (k p : Nat) :
    (setBitmap chs k).getLsbD p = chs.any (fun c => (c.slotBits k).getLsbD p) := by
  simp [setBitmap, setBitmap_foldl_getLsbD]

theorem pinbit_getLsbD (p : U8) (k : Nat) : (pinbit p).getLsbD k = (decide (k < 255) && decide (p.toNat = k)) := by
  rw [pinbit, BitVec.getLsbD_twoPow]
  by_cases h : p.toNat = k <;> simp [h]

/-- A pin is in the clear bitmap of a channel iff the channel is assigned to it (R237). -/
theorem clearOf_getLsbD (s : State) (id : U8) (p : Nat) :
    (s.clearOf id).getLsbD p = true ↔ ∃ c, s.ch[id.toNat]? = some c ∧ c.pin ≠ unassigned ∧ c.pin.toNat = p := by
  unfold State.clearOf State.channel pinBits
  rw [List.getD_eq_getElem?_getD]
  cases s.ch[id.toNat]? with
  | none => simp [freeChannel]
  | some c =>
    by_cases h : c.pin = unassigned
    · simp [h]
    · have hlt : c.pin.toNat < 255 := by
        have hne : c.pin.toNat ≠ 255 := fun e => h (BitVec.eq_of_toNat_eq (by simpa using e))
        have := c.pin.isLt
        omega
      simp only [Option.getD_some, if_neg h, pinbit_getLsbD, Bool.and_eq_true, decide_eq_true_eq, Option.some.injEq]
      constructor
      · exact fun hp => ⟨c, rfl, h, hp.2⟩
      · rintro ⟨d, rfl, -, rfl⟩
        exact ⟨hlt, rfl⟩

end Sys2Proof.Machine
end

