-- ==== Sys2Proof/Laws/Queue.lean ====
section
/-! SUPPORT. The queue operations: where the sentinel cuts a buffer (R32), annotate (R238), the rebuild's sort (R162) and the
updater's bubbling (R180). One lemma per fact a caller needs. -/

namespace Sys2Proof.Machine

/-! ### The sentinel cuts the buffer (R32) -/

theorem live_append_rest (q : Buffer) : q.live ++ q.rest = q.e := List.takeWhile_append_dropWhile

theorem live_id_ne_end (q : Buffer) : ∀ x ∈ q.live, x.id ≠ endId := by
  intro x hx
  simpa using List.mem_takeWhile_imp hx

/-- A buffer made of entries that are no sentinel, then a sentinel, is cut there. -/
theorem live_mk (es : List Entry) (z : Entry) (tl : List Entry) (st : Vector Pins 8)
    (h : ∀ x ∈ es, x.id ≠ endId) (hz : z.id = endId) : Buffer.live ⟨es ++ z :: tl, st⟩ = es := by
  rw [Buffer.live, List.takeWhile_append_of_pos (by simpa using h), List.takeWhile_cons_of_neg (by simp [hz]),
    List.append_nil]

theorem rest_mk (es : List Entry) (z : Entry) (tl : List Entry) (st : Vector Pins 8)
    (h : ∀ x ∈ es, x.id ≠ endId) (hz : z.id = endId) : Buffer.rest ⟨es ++ z :: tl, st⟩ = z :: tl := by
  rw [Buffer.rest, List.dropWhile_append_of_pos (by simpa using h), List.dropWhile_cons_of_neg (by simp [hz])]

theorem live_emptyBuffer (n : Nat) (p : U16) : (emptyBuffer n p).live = [] := by
  simp [Buffer.live, emptyBuffer, List.replicate_succ, sentinel]

theorem rest_emptyBuffer (n : Nat) (p : U16) :
    (emptyBuffer n p).rest = List.replicate (n + 1) (sentinel p) := by
  simp [Buffer.rest, emptyBuffer, List.replicate_succ, sentinel]

/-- The entry at the sentinel's index is the sentinel, those before it are the live ones. -/
theorem e_getElem?_live (q : Buffer) (k : Nat) (h : k < q.cnt) : q.e[k]? = q.live[k]? := by
  rw [← live_append_rest q, List.getElem?_append_left h]

theorem e_getElem?_cnt (q : Buffer) : q.e[q.cnt]? = q.rest.head? := by
  rw [← live_append_rest q, Buffer.cnt, List.getElem?_append_right (Nat.le_refl _), Nat.sub_self, List.head?_eq_getElem?]

/-! ### annotate (R238, R241) -/

/-- What annotate reads of an entry, and keeps: its id and its width (R241). -/
abbrev Entry.key (x : Entry) : U8 × U16 := (x.id, x.pw)

theorem annotate_cons (j : Nat) (f : U8 → Pins) (x : Entry) (xs : List Entry) :
    ∃ c k, annotate j f (x :: xs) = { x with clear := c, skip := k } :: annotate j f xs := by
  rw [annotate]
  split
  · rename_i h
    exact ⟨_, _, by rw [h]⟩
  · rename_i y ys h
    split <;> exact ⟨_, _, by rw [h]⟩

/-- annotate writes only `clear` and `skip` (R241). -/
@[simp] theorem annotate_map_key (j : Nat) (f : U8 → Pins) (es : List Entry) :
    (annotate j f es).map Entry.key = es.map Entry.key := by
  induction es with
  | nil => rfl
  | cons x xs ih =>
    obtain ⟨c, k, h⟩ := annotate_cons j f x xs
    rw [h, List.map_cons, List.map_cons, ih]

@[simp] theorem annotate_length (j : Nat) (f : U8 → Pins) (es : List Entry) :
    (annotate j f es).length = es.length := by
  rw [← List.length_map (f := Entry.key), annotate_map_key, List.length_map]

@[simp] theorem annotate_map_id (j : Nat) (f : U8 → Pins) (es : List Entry) :
    (annotate j f es).map Entry.id = es.map Entry.id := by
  have h := congrArg (List.map Prod.fst) (annotate_map_key j f es)
  rwa [List.map_map, List.map_map] at h

@[simp] theorem annotate_map_pw (j : Nat) (f : U8 → Pins) (es : List Entry) :
    (annotate j f es).map Entry.pw = es.map Entry.pw := by
  have h := congrArg (List.map Prod.snd) (annotate_map_key j f es)
  rwa [List.map_map, List.map_map] at h

/-- annotate is a function of the ids and widths alone (R241). -/
theorem annotate_congr (j : Nat) (f : U8 → Pins) (es fs : List Entry) (h : es.map Entry.key = fs.map Entry.key) :
    annotate j f es = annotate j f fs := by
  induction es generalizing fs with
  | nil => cases fs <;> simp_all
  | cons x xs ih =>
    cases fs with
    | nil => simp at h
    | cons y ys =>
      simp only [List.map_cons, List.cons.injEq, Prod.mk.injEq] at h
      obtain ⟨⟨hid, hpw⟩, ht⟩ := h
      rw [annotate, annotate, ih ys ht]
      cases x; cases y
      simp only at hid hpw
      subst hid hpw
      split <;> simp [joins]

/-- "Running it twice gives the same result" (R241). -/
theorem annotate_idem (j : Nat) (f : U8 → Pins) (es : List Entry) :
    annotate j f (annotate j f es) = annotate j f es :=
  annotate_congr j f _ _ (annotate_map_key j f es)

/-- A property of ids and widths holds of the annotated entries iff it holds of the entries. -/
theorem annotate_forall (j : Nat) (f : U8 → Pins) (es : List Entry) (P : U8 → U16 → Prop) :
    (∀ x ∈ annotate j f es, P x.id x.pw) ↔ ∀ x ∈ es, P x.id x.pw := by
  have key : ∀ l : List Entry, (∀ x ∈ l, P x.id x.pw) ↔ ∀ k ∈ l.map Entry.key, P k.1 k.2 := by simp
  rw [key, annotate_map_key, ← key]

theorem annotate_pairwise_pw (j : Nat) (f : U8 → Pins) (es : List Entry) (R : U16 → U16 → Prop) :
    (annotate j f es).Pairwise (fun x y => R x.pw y.pw) ↔ es.Pairwise (fun x y => R x.pw y.pw) := by
  rw [← List.pairwise_map (f := Entry.pw) (R := R), annotate_map_pw, List.pairwise_map]

/-- The skip counts that annotate leaves (R238, R50). -/
theorem annotate_skipsOk (j : Nat) (f : U8 → Pins) (es : List Entry) : skipsOk j (annotate j f es) = true := by
  induction es with
  | nil => rfl
  | cons x xs ih =>
    rw [annotate]
    cases h : annotate j f xs with
    | nil => simp [skipsOk]
    | cons y ys =>
      rw [h] at ih
      have hx : ∀ c k, joins j { x with clear := c, skip := k } y = joins j x y := fun _ _ => rfl
      by_cases hj : joins j x y
      · simp only [hj, if_true, skipsOk, hx, ih]
        simp
      · rw [Bool.not_eq_true] at hj
        simp only [hj, Bool.false_eq_true, if_false, skipsOk, hx, ih]
        simp

theorem fits_or {n : Nat} {a b : Pins} (ha : fits n a) (hb : fits n b) : fits n (a ||| b) := by
  rw [fits, BitVec.toNat_or]
  exact Nat.or_lt_two_pow ha hb

theorem annotate_fits (j n : Nat) (f : U8 → Pins) (es : List Entry) (h : ∀ x ∈ es, fits n (f x.id)) :
    ∀ x ∈ annotate j f es, fits n x.clear := by
  induction es with
  | nil => simp [annotate]
  | cons x xs ih =>
    have hx : fits n (f x.id) := h x (by simp)
    have hxs := ih (fun y hy => h y (List.mem_cons_of_mem _ hy))
    rw [annotate]
    split
    · simpa using hx
    · rename_i y ys heq
      rw [heq] at hxs
      have hy : fits n y.clear := hxs y (by simp)
      split
      · intro z hz
        rcases List.mem_cons.1 hz with rfl | hz
        · exact fits_or hy hx
        · exact hxs z hz
      · intro z hz
        rcases List.mem_cons.1 hz with rfl | hz
        · exact hx
        · exact hxs z hz

/-! ### The sort of a rebuild (R162) -/

theorem queueLe_total (x y : Entry) : queueLe x y ∨ queueLe y x := by
  unfold queueLe
  bv_omega

theorem queueLe_trans (x y z : Entry) (h : queueLe x y) (h' : queueLe y z) : queueLe x z := by
  unfold queueLe at *
  bv_omega

/-- The rebuild sorts ascending by width, then id (R162). -/
theorem sortedEntries_sorted (s : State) : s.sortedEntries.Pairwise queueLe := by
  have : Std.Total queueLe := ⟨queueLe_total⟩
  have : IsTrans Entry queueLe := ⟨queueLe_trans⟩
  exact List.pairwise_insertionSort queueLe _

/-- The rebuild holds exactly the collected entries (R161). -/
theorem sortedEntries_perm (s : State) : s.sortedEntries.Perm (collectFrom 0 s.ch) :=
  List.perm_insertionSort queueLe _

theorem mem_sortedEntries (s : State) (x : Entry) :
    x ∈ s.sortedEntries ↔ ∃ (k : Nat) (c : Channel), s.ch[k]? = some c ∧ c.assigned = true ∧ x = c.toEntry k := by
  rw [(sortedEntries_perm s).mem_iff, mem_collectFrom]
  simp

theorem sortedEntries_length_le (s : State) : s.sortedEntries.length ≤ s.ch.length := by
  rw [(sortedEntries_perm s).length_eq]
  exact collectFrom_length_le 0 s.ch

theorem sortedEntries_pw_sorted (s : State) : s.sortedEntries.Pairwise (fun x y => x.pw ≤ y.pw) := by
  refine (sortedEntries_sorted s).imp ?_
  intro x y h
  unfold queueLe at h
  bv_omega

/-! ### Bubbling (R180) -/

/-- The leftward loop moves left neighbours to the right part, nearest first; the entry passes exactly the wider ones,
and stops beside the first that is not. -/
theorem bubbleLeft_spec (w : U16) (left right : List Entry) :
    ∃ moved, left = moved ++ (bubbleLeft w left right).1 ∧
      (bubbleLeft w left right).2 = moved.reverse ++ right ∧
      (∀ y ∈ moved, w < y.pw) ∧ ∀ y, (bubbleLeft w left right).1.head? = some y → y.pw ≤ w := by
  induction left generalizing right with
  | nil => exact ⟨[], by simp [bubbleLeft]⟩
  | cons y ys ih =>
    by_cases h : w < y.pw
    · obtain ⟨m, h1, h2, h3, h4⟩ := ih (y :: right)
      refine ⟨y :: m, ?_, ?_, ?_, ?_⟩
      · simpa [bubbleLeft, h] using h1
      · simpa [bubbleLeft, h] using h2
      · simpa [h] using h3
      · simpa [bubbleLeft, h] using h4
    · exact ⟨[], by simp [bubbleLeft, h], by simp [bubbleLeft, h], by simp, by
        simpa [bubbleLeft, h] using BitVec.not_lt.1 h⟩

/-- The rightward loop, likewise. -/
theorem bubbleRight_spec (w : U16) (left right : List Entry) :
    ∃ moved, right = moved ++ (bubbleRight w left right).2 ∧
      (bubbleRight w left right).1 = moved.reverse ++ left ∧
      (∀ y ∈ moved, y.pw < w) ∧ ∀ y, (bubbleRight w left right).2.head? = some y → w ≤ y.pw := by
  induction right generalizing left with
  | nil => exact ⟨[], by simp [bubbleRight]⟩
  | cons y ys ih =>
    by_cases h : y.pw < w
    · obtain ⟨m, h1, h2, h3, h4⟩ := ih (y :: left)
      refine ⟨y :: m, ?_, ?_, ?_, ?_⟩
      · simpa [bubbleRight, h] using h1
      · simpa [bubbleRight, h] using h2
      · simpa [h] using h3
      · simpa [bubbleRight, h] using h4
    · exact ⟨[], by simp [bubbleRight, h], by simp [bubbleRight, h], by simp, by
        simpa [bubbleRight, h] using BitVec.not_lt.1 h⟩

/-- Bubbling moves the entry and keeps all the others in their order (R180). -/
theorem bubble_spec (left right : List Entry) (x : Entry) :
    ∃ a b, bubble left x right = a ++ x :: b ∧ a ++ b = left ++ right := by
  obtain ⟨m, h1, h2, -, -⟩ := bubbleLeft_spec x.pw left.reverse right
  obtain ⟨m', h1', h2', -, -⟩ := bubbleRight_spec x.pw (bubbleLeft x.pw left.reverse right).1
    (bubbleLeft x.pw left.reverse right).2
  refine ⟨_, _, rfl, ?_⟩
  have hl : left = (bubbleLeft x.pw left.reverse right).1.reverse ++ m.reverse := by
    rw [← List.reverse_append, ← h1, List.reverse_reverse]
  rw [h2', List.reverse_append, List.reverse_reverse, List.append_assoc, ← h1', h2]
  rw [← List.append_assoc, ← hl]

theorem bubble_perm (left right : List Entry) (x : Entry) :
    (bubble left x right).Perm (left ++ x :: right) := by
  obtain ⟨a, b, h, hab⟩ := bubble_spec left right x
  rw [h]
  exact List.perm_middle.trans ((List.Perm.cons x (List.Perm.of_eq hab)).trans List.perm_middle.symm)

/-- Bubbling restores the order, the other entries being sorted (R180). -/
theorem bubble_sorted (left right : List Entry) (x : Entry)
    (h : (left ++ right).Pairwise (fun a b => a.pw ≤ b.pw)) :
    (bubble left x right).Pairwise (fun a b => a.pw ≤ b.pw) := by
  obtain ⟨m, h1, h2, h3, h4⟩ := bubbleLeft_spec x.pw left.reverse right
  obtain ⟨m', h1', h2', h3', h4'⟩ := bubbleRight_spec x.pw (bubbleLeft x.pw left.reverse right).1
    (bubbleLeft x.pw left.reverse right).2
  set l := bubbleLeft x.pw left.reverse right with hl
  set r := bubbleRight x.pw l.1 l.2 with hr
  have hb : bubble left x right = r.1.reverse ++ x :: r.2 := rfl
  have hcat : left ++ right = r.1.reverse ++ r.2 := by
    have : left = l.1.reverse ++ m.reverse := by rw [← List.reverse_append, ← h1, List.reverse_reverse]
    rw [h2', List.reverse_append, List.reverse_reverse, List.append_assoc, ← h1', h2, this]
    simp
  rw [hcat, List.pairwise_append] at h
  obtain ⟨ha, hbs, hab⟩ := h
  rw [hb, List.pairwise_append, List.pairwise_cons]
  have hright : ∀ y ∈ r.2, x.pw ≤ y.pw := by
    intro y hy
    cases hr2 : r.2 with
    | nil => simp [hr2] at hy
    | cons z zs =>
      have hz : x.pw ≤ z.pw := h4' z (by simp [hr2])
      rw [hr2] at hy hbs
      rcases List.mem_cons.1 hy with rfl | hy
      · exact hz
      · exact BitVec.le_trans hz ((List.pairwise_cons.1 hbs).1 y hy)
  have hleft : ∀ y ∈ r.1.reverse, y.pw ≤ x.pw := by
    intro y hy
    rw [h2', List.reverse_append, List.reverse_reverse, List.mem_append] at hy
    rcases hy with hy | hy
    · cases hl1 : l.1 with
      | nil => simp [hl1] at hy
      | cons z zs =>
        have hz : z.pw ≤ x.pw := h4 z (by simp [hl1])
        rw [h2', List.reverse_append, List.reverse_reverse, hl1] at ha
        have ha' := (List.pairwise_append.1 ha).1
        rw [List.reverse_cons, List.pairwise_append] at ha'
        rw [hl1, List.reverse_cons, List.mem_append] at hy
        rcases hy with hy | hy
        · exact BitVec.le_trans (ha'.2.2 y hy z (by simp)) hz
        · rw [List.mem_singleton.1 hy]; exact hz
    · exact BitVec.le_of_lt (h3' y hy)
  refine ⟨ha, ⟨hright, hbs⟩, fun a ha' b hb' => ?_⟩
  rcases List.mem_cons.1 hb' with rfl | hb'
  · exact hleft a ha'
  · exact hab a ha' b hb'

/-- updateWidth finds no entry iff the channel has none (R181). -/
theorem updateWidth_eq_none_iff (c : U8) (w : U16) (es : List Entry) :
    updateWidth c w es = none ↔ ∀ x ∈ es, x.id ≠ c := by
  unfold updateWidth
  cases h : es.dropWhile (fun x => x.id != c) with
  | nil => simpa [List.dropWhile_eq_nil_iff] using h
  | cons x xs =>
    have hx : x.id = c := by
      have := List.head_dropWhile_not (fun y : Entry => y.id != c) (l := es) (by simp [h])
      simpa [h] using this
    simp only [reduceCtorEq, false_iff, not_forall, not_not]
    exact ⟨x, (List.dropWhile_sublist _).subset (by rw [h]; simp), hx⟩

/-- updateWidth takes the first entry of the channel out and bubbles it in with its new width (R178 to R180). -/
theorem updateWidth_eq_some (c : U8) (w : U16) (es fs : List Entry) (h : updateWidth c w es = some fs) :
    ∃ left x right, es = left ++ x :: right ∧ x.id = c ∧ (∀ y ∈ left, y.id ≠ c) ∧
      fs = bubble left { x with pw := w } right := by
  unfold updateWidth at h
  cases hd : es.dropWhile (fun x => x.id != c) with
  | nil => simp [hd] at h
  | cons x xs =>
    rw [hd] at h
    have hx : x.id = c := by
      have := List.head_dropWhile_not (fun y : Entry => y.id != c) (l := es) (by simp [hd])
      simpa [hd] using this
    refine ⟨es.takeWhile (fun x => x.id != c), x, xs, ?_, hx, ?_, (Option.some.inj h).symm⟩
    · rw [← hd, List.takeWhile_append_dropWhile]
    · intro y hy
      simpa using List.mem_takeWhile_imp hy

end Sys2Proof.Machine
end

