-- ==== Sys2Proof/Laws/State.lean ====
section
/-! SUPPORT. One lemma per field per update of the state: what each shared operation writes and what it leaves. -/

namespace Sys2Proof.Machine

/-! ### respond (R94) -/

@[simp] theorem respond_cfg (s : State) (ok ill : Bool) (v : U16) : (s.respond ok ill v).cfg = s.cfg := rfl
@[simp] theorem respond_ch (s : State) (ok ill : Bool) (v : U16) : (s.respond ok ill v).ch = s.ch := rfl
@[simp] theorem respond_periodWidth (s : State) (ok ill : Bool) (v : U16) : (s.respond ok ill v).periodWidth = s.periodWidth := rfl
@[simp] theorem respond_pendingUpdates (s : State) (ok ill : Bool) (v : U16) : (s.respond ok ill v).pendingUpdates = s.pendingUpdates := rfl
@[simp] theorem respond_q0 (s : State) (ok ill : Bool) (v : U16) : (s.respond ok ill v).q0 = s.q0 := rfl
@[simp] theorem respond_q1 (s : State) (ok ill : Bool) (v : U16) : (s.respond ok ill v).q1 = s.q1 := rfl
@[simp] theorem respond_active (s : State) (ok ill : Bool) (v : U16) : (s.respond ok ill v).active = s.active := rfl
@[simp] theorem respond_switchPending (s : State) (ok ill : Bool) (v : U16) : (s.respond ok ill v).switchPending = s.switchPending := rfl
@[simp] theorem respond_phase (s : State) (ok ill : Bool) (v : U16) : (s.respond ok ill v).phase = s.phase := rfl
@[simp] theorem respond_cursor (s : State) (ok ill : Bool) (v : U16) : (s.respond ok ill v).cursor = s.cursor := rfl
@[simp] theorem respond_slot (s : State) (ok ill : Bool) (v : U16) : (s.respond ok ill v).slot = s.slot := rfl
@[simp] theorem respond_asserted (s : State) (ok ill : Bool) (v : U16) : (s.respond ok ill v).asserted = s.asserted := rfl
@[simp] theorem respond_timerRun (s : State) (ok ill : Bool) (v : U16) : (s.respond ok ill v).timerRun = s.timerRun := rfl
@[simp] theorem respond_timerCnt (s : State) (ok ill : Bool) (v : U16) : (s.respond ok ill v).timerCnt = s.timerCnt := rfl
@[simp] theorem respond_gpioOut (s : State) (ok ill : Bool) (v : U16) : (s.respond ok ill v).gpioOut = s.gpioOut := rfl
@[simp] theorem respond_plan (s : State) (ok ill : Bool) (v : U16) : (s.respond ok ill v).plan = s.plan := rfl
@[simp] theorem respond_rsp (s : State) (ok ill : Bool) (v : U16) : (s.respond ok ill v).rsp = responseWord ok ill v := rfl
@[simp] theorem respond_now (s : State) (ok ill : Bool) (v : U16) : (s.respond ok ill v).now = s.now := rfl
@[simp] theorem respond_late (s : State) (ok ill : Bool) (v : U16) : (s.respond ok ill v).late = s.late := rfl
@[simp] theorem respond_script (s : State) (ok ill : Bool) (v : U16) : (s.respond ok ill v).script = s.script := rfl
@[simp] theorem respond_draws (s : State) (ok ill : Bool) (v : U16) : (s.respond ok ill v).draws = s.draws := rfl
@[simp] theorem respond_prepWait (s : State) (ok ill : Bool) (v : U16) : (s.respond ok ill v).prepWait = s.prepWait := rfl

/-! ### writing a buffer (R27) -/

@[simp] theorem setBuf_cfg (s : State) (b : Bool) (q : Buffer) : (s.setBuf b q).cfg = s.cfg := by cases b <;> rfl
@[simp] theorem setBuf_ch (s : State) (b : Bool) (q : Buffer) : (s.setBuf b q).ch = s.ch := by cases b <;> rfl
@[simp] theorem setBuf_periodWidth (s : State) (b : Bool) (q : Buffer) : (s.setBuf b q).periodWidth = s.periodWidth := by cases b <;> rfl
@[simp] theorem setBuf_pendingUpdates (s : State) (b : Bool) (q : Buffer) : (s.setBuf b q).pendingUpdates = s.pendingUpdates := by cases b <;> rfl
@[simp] theorem setBuf_active (s : State) (b : Bool) (q : Buffer) : (s.setBuf b q).active = s.active := by cases b <;> rfl
@[simp] theorem setBuf_switchPending (s : State) (b : Bool) (q : Buffer) : (s.setBuf b q).switchPending = s.switchPending := by cases b <;> rfl
@[simp] theorem setBuf_phase (s : State) (b : Bool) (q : Buffer) : (s.setBuf b q).phase = s.phase := by cases b <;> rfl
@[simp] theorem setBuf_cursor (s : State) (b : Bool) (q : Buffer) : (s.setBuf b q).cursor = s.cursor := by cases b <;> rfl
@[simp] theorem setBuf_slot (s : State) (b : Bool) (q : Buffer) : (s.setBuf b q).slot = s.slot := by cases b <;> rfl
@[simp] theorem setBuf_asserted (s : State) (b : Bool) (q : Buffer) : (s.setBuf b q).asserted = s.asserted := by cases b <;> rfl
@[simp] theorem setBuf_timerRun (s : State) (b : Bool) (q : Buffer) : (s.setBuf b q).timerRun = s.timerRun := by cases b <;> rfl
@[simp] theorem setBuf_timerCnt (s : State) (b : Bool) (q : Buffer) : (s.setBuf b q).timerCnt = s.timerCnt := by cases b <;> rfl
@[simp] theorem setBuf_gpioOut (s : State) (b : Bool) (q : Buffer) : (s.setBuf b q).gpioOut = s.gpioOut := by cases b <;> rfl
@[simp] theorem setBuf_plan (s : State) (b : Bool) (q : Buffer) : (s.setBuf b q).plan = s.plan := by cases b <;> rfl
@[simp] theorem setBuf_rsp (s : State) (b : Bool) (q : Buffer) : (s.setBuf b q).rsp = s.rsp := by cases b <;> rfl
@[simp] theorem setBuf_now (s : State) (b : Bool) (q : Buffer) : (s.setBuf b q).now = s.now := by cases b <;> rfl
@[simp] theorem setBuf_late (s : State) (b : Bool) (q : Buffer) : (s.setBuf b q).late = s.late := by cases b <;> rfl
@[simp] theorem setBuf_script (s : State) (b : Bool) (q : Buffer) : (s.setBuf b q).script = s.script := by cases b <;> rfl
@[simp] theorem setBuf_draws (s : State) (b : Bool) (q : Buffer) : (s.setBuf b q).draws = s.draws := by cases b <;> rfl
@[simp] theorem setBuf_prepWait (s : State) (b : Bool) (q : Buffer) : (s.setBuf b q).prepWait = s.prepWait := by cases b <;> rfl

/-! ### emptying both buffers (R32) -/

@[simp] theorem emptyBuffers_cfg (s : State) (p : U16) : (s.emptyBuffers p).cfg = s.cfg := rfl
@[simp] theorem emptyBuffers_ch (s : State) (p : U16) : (s.emptyBuffers p).ch = s.ch := rfl
@[simp] theorem emptyBuffers_periodWidth (s : State) (p : U16) : (s.emptyBuffers p).periodWidth = s.periodWidth := rfl
@[simp] theorem emptyBuffers_pendingUpdates (s : State) (p : U16) : (s.emptyBuffers p).pendingUpdates = s.pendingUpdates := rfl
@[simp] theorem emptyBuffers_q0 (s : State) (p : U16) : (s.emptyBuffers p).q0 = emptyBuffer s.cfg.n p := rfl
@[simp] theorem emptyBuffers_q1 (s : State) (p : U16) : (s.emptyBuffers p).q1 = emptyBuffer s.cfg.n p := rfl
@[simp] theorem emptyBuffers_active (s : State) (p : U16) : (s.emptyBuffers p).active = s.active := rfl
@[simp] theorem emptyBuffers_switchPending (s : State) (p : U16) : (s.emptyBuffers p).switchPending = s.switchPending := rfl
@[simp] theorem emptyBuffers_phase (s : State) (p : U16) : (s.emptyBuffers p).phase = s.phase := rfl
@[simp] theorem emptyBuffers_cursor (s : State) (p : U16) : (s.emptyBuffers p).cursor = s.cursor := rfl
@[simp] theorem emptyBuffers_slot (s : State) (p : U16) : (s.emptyBuffers p).slot = s.slot := rfl
@[simp] theorem emptyBuffers_asserted (s : State) (p : U16) : (s.emptyBuffers p).asserted = s.asserted := rfl
@[simp] theorem emptyBuffers_timerRun (s : State) (p : U16) : (s.emptyBuffers p).timerRun = s.timerRun := rfl
@[simp] theorem emptyBuffers_timerCnt (s : State) (p : U16) : (s.emptyBuffers p).timerCnt = s.timerCnt := rfl
@[simp] theorem emptyBuffers_gpioOut (s : State) (p : U16) : (s.emptyBuffers p).gpioOut = s.gpioOut := rfl
@[simp] theorem emptyBuffers_plan (s : State) (p : U16) : (s.emptyBuffers p).plan = s.plan := rfl
@[simp] theorem emptyBuffers_rsp (s : State) (p : U16) : (s.emptyBuffers p).rsp = s.rsp := rfl
@[simp] theorem emptyBuffers_now (s : State) (p : U16) : (s.emptyBuffers p).now = s.now := rfl
@[simp] theorem emptyBuffers_late (s : State) (p : U16) : (s.emptyBuffers p).late = s.late := rfl
@[simp] theorem emptyBuffers_script (s : State) (p : U16) : (s.emptyBuffers p).script = s.script := rfl
@[simp] theorem emptyBuffers_draws (s : State) (p : U16) : (s.emptyBuffers p).draws = s.draws := rfl
@[simp] theorem emptyBuffers_prepWait (s : State) (p : U16) : (s.emptyBuffers p).prepWait = s.prepWait := rfl

/-! ### writing a channel record (R16) -/

@[simp] theorem setChannel_cfg (s : State) (i : Nat) (c : Channel) : (s.setChannel i c).cfg = s.cfg := rfl
@[simp] theorem setChannel_ch (s : State) (i : Nat) (c : Channel) : (s.setChannel i c).ch = s.ch.set i c := rfl
@[simp] theorem setChannel_periodWidth (s : State) (i : Nat) (c : Channel) : (s.setChannel i c).periodWidth = s.periodWidth := rfl
@[simp] theorem setChannel_pendingUpdates (s : State) (i : Nat) (c : Channel) : (s.setChannel i c).pendingUpdates = s.pendingUpdates := rfl
@[simp] theorem setChannel_q0 (s : State) (i : Nat) (c : Channel) : (s.setChannel i c).q0 = s.q0 := rfl
@[simp] theorem setChannel_q1 (s : State) (i : Nat) (c : Channel) : (s.setChannel i c).q1 = s.q1 := rfl
@[simp] theorem setChannel_active (s : State) (i : Nat) (c : Channel) : (s.setChannel i c).active = s.active := rfl
@[simp] theorem setChannel_switchPending (s : State) (i : Nat) (c : Channel) : (s.setChannel i c).switchPending = s.switchPending := rfl
@[simp] theorem setChannel_phase (s : State) (i : Nat) (c : Channel) : (s.setChannel i c).phase = s.phase := rfl
@[simp] theorem setChannel_cursor (s : State) (i : Nat) (c : Channel) : (s.setChannel i c).cursor = s.cursor := rfl
@[simp] theorem setChannel_slot (s : State) (i : Nat) (c : Channel) : (s.setChannel i c).slot = s.slot := rfl
@[simp] theorem setChannel_asserted (s : State) (i : Nat) (c : Channel) : (s.setChannel i c).asserted = s.asserted := rfl
@[simp] theorem setChannel_timerRun (s : State) (i : Nat) (c : Channel) : (s.setChannel i c).timerRun = s.timerRun := rfl
@[simp] theorem setChannel_timerCnt (s : State) (i : Nat) (c : Channel) : (s.setChannel i c).timerCnt = s.timerCnt := rfl
@[simp] theorem setChannel_gpioOut (s : State) (i : Nat) (c : Channel) : (s.setChannel i c).gpioOut = s.gpioOut := rfl
@[simp] theorem setChannel_plan (s : State) (i : Nat) (c : Channel) : (s.setChannel i c).plan = s.plan := rfl
@[simp] theorem setChannel_rsp (s : State) (i : Nat) (c : Channel) : (s.setChannel i c).rsp = s.rsp := rfl
@[simp] theorem setChannel_now (s : State) (i : Nat) (c : Channel) : (s.setChannel i c).now = s.now := rfl
@[simp] theorem setChannel_late (s : State) (i : Nat) (c : Channel) : (s.setChannel i c).late = s.late := rfl
@[simp] theorem setChannel_script (s : State) (i : Nat) (c : Channel) : (s.setChannel i c).script = s.script := rfl
@[simp] theorem setChannel_draws (s : State) (i : Nat) (c : Channel) : (s.setChannel i c).draws = s.draws := rfl
@[simp] theorem setChannel_prepWait (s : State) (i : Nat) (c : Channel) : (s.setChannel i c).prepWait = s.prepWait := rfl

/-! ### publish (R192) -/

@[simp] theorem publish_cfg (s : State) : (s.publish).cfg = s.cfg := rfl
@[simp] theorem publish_ch (s : State) : (s.publish).ch = s.ch := rfl
@[simp] theorem publish_periodWidth (s : State) : (s.publish).periodWidth = s.periodWidth := rfl
@[simp] theorem publish_pendingUpdates (s : State) : (s.publish).pendingUpdates = s.pendingUpdates := rfl
@[simp] theorem publish_q0 (s : State) : (s.publish).q0 = s.q0 := rfl
@[simp] theorem publish_q1 (s : State) : (s.publish).q1 = s.q1 := rfl
@[simp] theorem publish_active (s : State) : (s.publish).active = s.active := rfl
@[simp] theorem publish_switchPending (s : State) : (s.publish).switchPending = true := rfl
@[simp] theorem publish_phase (s : State) : (s.publish).phase = s.phase := rfl
@[simp] theorem publish_cursor (s : State) : (s.publish).cursor = s.cursor := rfl
@[simp] theorem publish_slot (s : State) : (s.publish).slot = s.slot := rfl
@[simp] theorem publish_asserted (s : State) : (s.publish).asserted = s.asserted := rfl
@[simp] theorem publish_timerRun (s : State) : (s.publish).timerRun = s.timerRun := rfl
@[simp] theorem publish_timerCnt (s : State) : (s.publish).timerCnt = s.timerCnt := rfl
@[simp] theorem publish_gpioOut (s : State) : (s.publish).gpioOut = s.gpioOut := rfl
@[simp] theorem publish_plan (s : State) : (s.publish).plan = s.plan := rfl
@[simp] theorem publish_rsp (s : State) : (s.publish).rsp = s.rsp := rfl
@[simp] theorem publish_now (s : State) : (s.publish).now = s.now := rfl
@[simp] theorem publish_late (s : State) : (s.publish).late = s.late := rfl
@[simp] theorem publish_script (s : State) : (s.publish).script = s.script := rfl
@[simp] theorem publish_draws (s : State) : (s.publish).draws = s.draws := rfl
@[simp] theorem publish_prepWait (s : State) : (s.publish).prepWait = s.prepWait := rfl

/-! ### cancel (R191) -/

@[simp] theorem cancel_cfg (s : State) : (s.cancel.2).cfg = s.cfg := rfl
@[simp] theorem cancel_ch (s : State) : (s.cancel.2).ch = s.ch := rfl
@[simp] theorem cancel_periodWidth (s : State) : (s.cancel.2).periodWidth = s.periodWidth := rfl
@[simp] theorem cancel_pendingUpdates (s : State) : (s.cancel.2).pendingUpdates = s.pendingUpdates := rfl
@[simp] theorem cancel_q0 (s : State) : (s.cancel.2).q0 = s.q0 := rfl
@[simp] theorem cancel_q1 (s : State) : (s.cancel.2).q1 = s.q1 := rfl
@[simp] theorem cancel_active (s : State) : (s.cancel.2).active = s.active := rfl
@[simp] theorem cancel_switchPending (s : State) : (s.cancel.2).switchPending = false := rfl
@[simp] theorem cancel_phase (s : State) : (s.cancel.2).phase = s.phase := rfl
@[simp] theorem cancel_cursor (s : State) : (s.cancel.2).cursor = s.cursor := rfl
@[simp] theorem cancel_slot (s : State) : (s.cancel.2).slot = s.slot := rfl
@[simp] theorem cancel_asserted (s : State) : (s.cancel.2).asserted = s.asserted := rfl
@[simp] theorem cancel_timerRun (s : State) : (s.cancel.2).timerRun = s.timerRun := rfl
@[simp] theorem cancel_timerCnt (s : State) : (s.cancel.2).timerCnt = s.timerCnt := rfl
@[simp] theorem cancel_gpioOut (s : State) : (s.cancel.2).gpioOut = s.gpioOut := rfl
@[simp] theorem cancel_plan (s : State) : (s.cancel.2).plan = s.plan := rfl
@[simp] theorem cancel_rsp (s : State) : (s.cancel.2).rsp = s.rsp := rfl
@[simp] theorem cancel_now (s : State) : (s.cancel.2).now = s.now := rfl
@[simp] theorem cancel_late (s : State) : (s.cancel.2).late = s.late := rfl
@[simp] theorem cancel_script (s : State) : (s.cancel.2).script = s.script := rfl
@[simp] theorem cancel_draws (s : State) : (s.cancel.2).draws = s.draws := rfl
@[simp] theorem cancel_prepWait (s : State) : (s.cancel.2).prepWait = s.prepWait := rfl

/-! ### commit (R193) -/

@[simp] theorem commit_cfg (s : State) : (s.commit).cfg = s.cfg := by unfold State.commit; split <;> rfl
@[simp] theorem commit_ch (s : State) : (s.commit).ch = s.ch := by unfold State.commit; split <;> rfl
@[simp] theorem commit_periodWidth (s : State) : (s.commit).periodWidth = s.periodWidth := by unfold State.commit; split <;> rfl
@[simp] theorem commit_pendingUpdates (s : State) : (s.commit).pendingUpdates = s.pendingUpdates := by unfold State.commit; split <;> rfl
@[simp] theorem commit_q0 (s : State) : (s.commit).q0 = s.q0 := by unfold State.commit; split <;> rfl
@[simp] theorem commit_q1 (s : State) : (s.commit).q1 = s.q1 := by unfold State.commit; split <;> rfl
@[simp] theorem commit_phase (s : State) : (s.commit).phase = s.phase := by unfold State.commit; split <;> rfl
@[simp] theorem commit_cursor (s : State) : (s.commit).cursor = s.cursor := by unfold State.commit; split <;> rfl
@[simp] theorem commit_slot (s : State) : (s.commit).slot = s.slot := by unfold State.commit; split <;> rfl
@[simp] theorem commit_asserted (s : State) : (s.commit).asserted = s.asserted := by unfold State.commit; split <;> rfl
@[simp] theorem commit_timerRun (s : State) : (s.commit).timerRun = s.timerRun := by unfold State.commit; split <;> rfl
@[simp] theorem commit_timerCnt (s : State) : (s.commit).timerCnt = s.timerCnt := by unfold State.commit; split <;> rfl
@[simp] theorem commit_gpioOut (s : State) : (s.commit).gpioOut = s.gpioOut := by unfold State.commit; split <;> rfl
@[simp] theorem commit_plan (s : State) : (s.commit).plan = s.plan := by unfold State.commit; split <;> rfl
@[simp] theorem commit_rsp (s : State) : (s.commit).rsp = s.rsp := by unfold State.commit; split <;> rfl
@[simp] theorem commit_now (s : State) : (s.commit).now = s.now := by unfold State.commit; split <;> rfl
@[simp] theorem commit_late (s : State) : (s.commit).late = s.late := by unfold State.commit; split <;> rfl
@[simp] theorem commit_script (s : State) : (s.commit).script = s.script := by unfold State.commit; split <;> rfl
@[simp] theorem commit_draws (s : State) : (s.commit).draws = s.draws := by unfold State.commit; split <;> rfl
@[simp] theorem commit_prepWait (s : State) : (s.commit).prepWait = s.prepWait := by unfold State.commit; split <;> rfl

/-! ### the choice of a rebuild (R122) -/

@[simp] theorem chooseRebuild_cfg (s : State) (a b : Bool) : (s.chooseRebuild a b).cfg = s.cfg := rfl
@[simp] theorem chooseRebuild_ch (s : State) (a b : Bool) : (s.chooseRebuild a b).ch = s.ch := rfl
@[simp] theorem chooseRebuild_periodWidth (s : State) (a b : Bool) : (s.chooseRebuild a b).periodWidth = s.periodWidth := rfl
@[simp] theorem chooseRebuild_pendingUpdates (s : State) (a b : Bool) : (s.chooseRebuild a b).pendingUpdates = 0 := rfl
@[simp] theorem chooseRebuild_q0 (s : State) (a b : Bool) : (s.chooseRebuild a b).q0 = s.q0 := rfl
@[simp] theorem chooseRebuild_q1 (s : State) (a b : Bool) : (s.chooseRebuild a b).q1 = s.q1 := rfl
@[simp] theorem chooseRebuild_active (s : State) (a b : Bool) : (s.chooseRebuild a b).active = s.active := rfl
@[simp] theorem chooseRebuild_switchPending (s : State) (a b : Bool) : (s.chooseRebuild a b).switchPending = false := rfl
@[simp] theorem chooseRebuild_phase (s : State) (a b : Bool) : (s.chooseRebuild a b).phase = s.phase := rfl
@[simp] theorem chooseRebuild_cursor (s : State) (a b : Bool) : (s.chooseRebuild a b).cursor = s.cursor := rfl
@[simp] theorem chooseRebuild_slot (s : State) (a b : Bool) : (s.chooseRebuild a b).slot = s.slot := rfl
@[simp] theorem chooseRebuild_asserted (s : State) (a b : Bool) : (s.chooseRebuild a b).asserted = s.asserted := rfl
@[simp] theorem chooseRebuild_timerRun (s : State) (a b : Bool) : (s.chooseRebuild a b).timerRun = s.timerRun := rfl
@[simp] theorem chooseRebuild_timerCnt (s : State) (a b : Bool) : (s.chooseRebuild a b).timerCnt = s.timerCnt := rfl
@[simp] theorem chooseRebuild_gpioOut (s : State) (a b : Bool) : (s.chooseRebuild a b).gpioOut = s.gpioOut := rfl
@[simp] theorem chooseRebuild_plan (s : State) (a b : Bool) : (s.chooseRebuild a b).plan = ⟨1, a, b, false, 0, 0⟩ := rfl
@[simp] theorem chooseRebuild_rsp (s : State) (a b : Bool) : (s.chooseRebuild a b).rsp = s.rsp := rfl
@[simp] theorem chooseRebuild_now (s : State) (a b : Bool) : (s.chooseRebuild a b).now = s.now := rfl
@[simp] theorem chooseRebuild_late (s : State) (a b : Bool) : (s.chooseRebuild a b).late = s.late := rfl
@[simp] theorem chooseRebuild_script (s : State) (a b : Bool) : (s.chooseRebuild a b).script = s.script := rfl
@[simp] theorem chooseRebuild_draws (s : State) (a b : Bool) : (s.chooseRebuild a b).draws = s.draws := rfl
@[simp] theorem chooseRebuild_prepWait (s : State) (a b : Bool) : (s.chooseRebuild a b).prepWait = s.prepWait := rfl

/-! ### the choice of an update (R126) -/

@[simp] theorem chooseIncr_cfg (s : State) (c : U8) (w : U16) : (s.chooseIncr c w).cfg = s.cfg := rfl
@[simp] theorem chooseIncr_ch (s : State) (c : U8) (w : U16) : (s.chooseIncr c w).ch = s.ch := rfl
@[simp] theorem chooseIncr_periodWidth (s : State) (c : U8) (w : U16) : (s.chooseIncr c w).periodWidth = s.periodWidth := rfl
@[simp] theorem chooseIncr_pendingUpdates (s : State) (c : U8) (w : U16) : (s.chooseIncr c w).pendingUpdates = s.pendingUpdates := rfl
@[simp] theorem chooseIncr_q0 (s : State) (c : U8) (w : U16) : (s.chooseIncr c w).q0 = s.q0 := rfl
@[simp] theorem chooseIncr_q1 (s : State) (c : U8) (w : U16) : (s.chooseIncr c w).q1 = s.q1 := rfl
@[simp] theorem chooseIncr_active (s : State) (c : U8) (w : U16) : (s.chooseIncr c w).active = s.active := rfl
@[simp] theorem chooseIncr_switchPending (s : State) (c : U8) (w : U16) : (s.chooseIncr c w).switchPending = false := rfl
@[simp] theorem chooseIncr_phase (s : State) (c : U8) (w : U16) : (s.chooseIncr c w).phase = s.phase := rfl
@[simp] theorem chooseIncr_cursor (s : State) (c : U8) (w : U16) : (s.chooseIncr c w).cursor = s.cursor := rfl
@[simp] theorem chooseIncr_slot (s : State) (c : U8) (w : U16) : (s.chooseIncr c w).slot = s.slot := rfl
@[simp] theorem chooseIncr_asserted (s : State) (c : U8) (w : U16) : (s.chooseIncr c w).asserted = s.asserted := rfl
@[simp] theorem chooseIncr_timerRun (s : State) (c : U8) (w : U16) : (s.chooseIncr c w).timerRun = s.timerRun := rfl
@[simp] theorem chooseIncr_timerCnt (s : State) (c : U8) (w : U16) : (s.chooseIncr c w).timerCnt = s.timerCnt := rfl
@[simp] theorem chooseIncr_gpioOut (s : State) (c : U8) (w : U16) : (s.chooseIncr c w).gpioOut = s.gpioOut := rfl
@[simp] theorem chooseIncr_plan (s : State) (c : U8) (w : U16) : (s.chooseIncr c w).plan = ⟨2, false, false, s.switchPending, c, w⟩ := rfl
@[simp] theorem chooseIncr_rsp (s : State) (c : U8) (w : U16) : (s.chooseIncr c w).rsp = s.rsp := rfl
@[simp] theorem chooseIncr_now (s : State) (c : U8) (w : U16) : (s.chooseIncr c w).now = s.now := rfl
@[simp] theorem chooseIncr_late (s : State) (c : U8) (w : U16) : (s.chooseIncr c w).late = s.late := rfl
@[simp] theorem chooseIncr_script (s : State) (c : U8) (w : U16) : (s.chooseIncr c w).script = s.script := rfl
@[simp] theorem chooseIncr_draws (s : State) (c : U8) (w : U16) : (s.chooseIncr c w).draws = s.draws := rfl
@[simp] theorem chooseIncr_prepWait (s : State) (c : U8) (w : U16) : (s.chooseIncr c w).prepWait = s.prepWait := rfl

/-! ### loading the timer (R41) -/

@[simp] theorem loadTimer_cfg (s : State) (v : U16) : (s.loadTimer v).cfg = s.cfg := rfl
@[simp] theorem loadTimer_ch (s : State) (v : U16) : (s.loadTimer v).ch = s.ch := rfl
@[simp] theorem loadTimer_periodWidth (s : State) (v : U16) : (s.loadTimer v).periodWidth = s.periodWidth := rfl
@[simp] theorem loadTimer_pendingUpdates (s : State) (v : U16) : (s.loadTimer v).pendingUpdates = s.pendingUpdates := rfl
@[simp] theorem loadTimer_q0 (s : State) (v : U16) : (s.loadTimer v).q0 = s.q0 := rfl
@[simp] theorem loadTimer_q1 (s : State) (v : U16) : (s.loadTimer v).q1 = s.q1 := rfl
@[simp] theorem loadTimer_active (s : State) (v : U16) : (s.loadTimer v).active = s.active := rfl
@[simp] theorem loadTimer_switchPending (s : State) (v : U16) : (s.loadTimer v).switchPending = s.switchPending := rfl
@[simp] theorem loadTimer_phase (s : State) (v : U16) : (s.loadTimer v).phase = s.phase := rfl
@[simp] theorem loadTimer_cursor (s : State) (v : U16) : (s.loadTimer v).cursor = s.cursor := rfl
@[simp] theorem loadTimer_slot (s : State) (v : U16) : (s.loadTimer v).slot = s.slot := rfl
@[simp] theorem loadTimer_asserted (s : State) (v : U16) : (s.loadTimer v).asserted = s.asserted := rfl
@[simp] theorem loadTimer_timerRun (s : State) (v : U16) : (s.loadTimer v).timerRun = s.timerRun := rfl
@[simp] theorem loadTimer_timerCnt (s : State) (v : U16) : (s.loadTimer v).timerCnt = v := rfl
@[simp] theorem loadTimer_gpioOut (s : State) (v : U16) : (s.loadTimer v).gpioOut = s.gpioOut := rfl
@[simp] theorem loadTimer_plan (s : State) (v : U16) : (s.loadTimer v).plan = s.plan := rfl
@[simp] theorem loadTimer_rsp (s : State) (v : U16) : (s.loadTimer v).rsp = s.rsp := rfl
@[simp] theorem loadTimer_now (s : State) (v : U16) : (s.loadTimer v).now = s.now := rfl
@[simp] theorem loadTimer_late (s : State) (v : U16) : (s.loadTimer v).late = 0 := rfl
@[simp] theorem loadTimer_script (s : State) (v : U16) : (s.loadTimer v).script = s.script := rfl
@[simp] theorem loadTimer_draws (s : State) (v : U16) : (s.loadTimer v).draws = s.draws := rfl
@[simp] theorem loadTimer_prepWait (s : State) (v : U16) : (s.loadTimer v).prepWait = s.prepWait := rfl

/-! ### start (R213) -/

@[simp] theorem start_cfg (s : State) : (s.start).cfg = s.cfg := rfl
@[simp] theorem start_ch (s : State) : (s.start).ch = s.ch := rfl
@[simp] theorem start_periodWidth (s : State) : (s.start).periodWidth = s.periodWidth := rfl
@[simp] theorem start_pendingUpdates (s : State) : (s.start).pendingUpdates = s.pendingUpdates := rfl
@[simp] theorem start_q0 (s : State) : (s.start).q0 = s.q0 := rfl
@[simp] theorem start_q1 (s : State) : (s.start).q1 = s.q1 := rfl
@[simp] theorem start_active (s : State) : (s.start).active = s.active := rfl
@[simp] theorem start_switchPending (s : State) : (s.start).switchPending = s.switchPending := rfl
@[simp] theorem start_phase (s : State) : (s.start).phase = 0 := rfl
@[simp] theorem start_cursor (s : State) : (s.start).cursor = 0 := rfl
@[simp] theorem start_slot (s : State) : (s.start).slot = 0 := rfl
@[simp] theorem start_asserted (s : State) : (s.start).asserted = 0 := rfl
@[simp] theorem start_timerRun (s : State) : (s.start).timerRun = true := rfl
@[simp] theorem start_timerCnt (s : State) : (s.start).timerCnt = 0 := rfl
@[simp] theorem start_gpioOut (s : State) : (s.start).gpioOut = s.gpioOut := rfl
@[simp] theorem start_plan (s : State) : (s.start).plan = s.plan := rfl
@[simp] theorem start_rsp (s : State) : (s.start).rsp = s.rsp := rfl
@[simp] theorem start_now (s : State) : (s.start).now = s.now := rfl
@[simp] theorem start_late (s : State) : (s.start).late = 0 := rfl
@[simp] theorem start_script (s : State) : (s.start).script = s.script := rfl
@[simp] theorem start_draws (s : State) : (s.start).draws = s.draws := rfl
@[simp] theorem start_prepWait (s : State) : (s.start).prepWait = s.prepWait := rfl

/-! ### stop (R214) -/

@[simp] theorem stop_cfg (s : State) : (s.stop).cfg = s.cfg := rfl
@[simp] theorem stop_ch (s : State) : (s.stop).ch = s.ch := rfl
@[simp] theorem stop_periodWidth (s : State) : (s.stop).periodWidth = s.periodWidth := rfl
@[simp] theorem stop_pendingUpdates (s : State) : (s.stop).pendingUpdates = 0 := rfl
@[simp] theorem stop_q0 (s : State) : (s.stop).q0 = emptyBuffer s.cfg.n s.periodWidth := rfl
@[simp] theorem stop_q1 (s : State) : (s.stop).q1 = emptyBuffer s.cfg.n s.periodWidth := rfl
@[simp] theorem stop_active (s : State) : (s.stop).active = false := rfl
@[simp] theorem stop_switchPending (s : State) : (s.stop).switchPending = false := rfl
@[simp] theorem stop_phase (s : State) : (s.stop).phase = 0 := rfl
@[simp] theorem stop_cursor (s : State) : (s.stop).cursor = 0 := rfl
@[simp] theorem stop_slot (s : State) : (s.stop).slot = 0 := rfl
@[simp] theorem stop_asserted (s : State) : (s.stop).asserted = 0 := rfl
@[simp] theorem stop_timerRun (s : State) : (s.stop).timerRun = false := rfl
@[simp] theorem stop_timerCnt (s : State) : (s.stop).timerCnt = 0 := rfl
@[simp] theorem stop_gpioOut (s : State) : (s.stop).gpioOut = s.gpioOut &&& ~~~ s.asserted := rfl
@[simp] theorem stop_plan (s : State) : (s.stop).plan = s.plan := rfl
@[simp] theorem stop_rsp (s : State) : (s.stop).rsp = s.rsp := rfl
@[simp] theorem stop_now (s : State) : (s.stop).now = s.now := rfl
@[simp] theorem stop_late (s : State) : (s.stop).late = 0 := rfl
@[simp] theorem stop_script (s : State) : (s.stop).script = s.script := rfl
@[simp] theorem stop_draws (s : State) : (s.stop).draws = s.draws := rfl
@[simp] theorem stop_prepWait (s : State) : (s.stop).prepWait = s.prepWait := rfl

/-! ### restart (R215) -/

@[simp] theorem restart_cfg (s : State) : (s.restart).cfg = s.cfg := rfl
@[simp] theorem restart_ch (s : State) : (s.restart).ch = s.ch := rfl
@[simp] theorem restart_periodWidth (s : State) : (s.restart).periodWidth = s.periodWidth := rfl
@[simp] theorem restart_pendingUpdates (s : State) : (s.restart).pendingUpdates = s.pendingUpdates := rfl
@[simp] theorem restart_q0 (s : State) : (s.restart).q0 = s.q0 := rfl
@[simp] theorem restart_q1 (s : State) : (s.restart).q1 = s.q1 := rfl
@[simp] theorem restart_active (s : State) : (s.restart).active = s.active := rfl
@[simp] theorem restart_switchPending (s : State) : (s.restart).switchPending = s.switchPending := rfl
@[simp] theorem restart_phase (s : State) : (s.restart).phase = 0 := rfl
@[simp] theorem restart_cursor (s : State) : (s.restart).cursor = 0 := rfl
@[simp] theorem restart_slot (s : State) : (s.restart).slot = s.slot := rfl
@[simp] theorem restart_asserted (s : State) : (s.restart).asserted = s.asserted := rfl
@[simp] theorem restart_timerRun (s : State) : (s.restart).timerRun = s.timerRun := rfl
@[simp] theorem restart_timerCnt (s : State) : (s.restart).timerCnt = 0 := rfl
@[simp] theorem restart_gpioOut (s : State) : (s.restart).gpioOut = s.gpioOut := rfl
@[simp] theorem restart_plan (s : State) : (s.restart).plan = s.plan := rfl
@[simp] theorem restart_rsp (s : State) : (s.restart).rsp = s.rsp := rfl
@[simp] theorem restart_now (s : State) : (s.restart).now = s.now := rfl
@[simp] theorem restart_late (s : State) : (s.restart).late = 0 := rfl
@[simp] theorem restart_script (s : State) : (s.restart).script = s.script := rfl
@[simp] theorem restart_draws (s : State) : (s.restart).draws = s.draws := rfl
@[simp] theorem restart_prepWait (s : State) : (s.restart).prepWait = s.prepWait := rfl

/-! ### the tick (R206) -/

@[simp] theorem tick_cfg (s : State) : (s.tick).cfg = s.cfg := by unfold State.tick; split <;> rfl
@[simp] theorem tick_ch (s : State) : (s.tick).ch = s.ch := by unfold State.tick; split <;> rfl
@[simp] theorem tick_periodWidth (s : State) : (s.tick).periodWidth = s.periodWidth := by unfold State.tick; split <;> rfl
@[simp] theorem tick_pendingUpdates (s : State) : (s.tick).pendingUpdates = s.pendingUpdates := by unfold State.tick; split <;> rfl
@[simp] theorem tick_q0 (s : State) : (s.tick).q0 = s.q0 := by unfold State.tick; split <;> rfl
@[simp] theorem tick_q1 (s : State) : (s.tick).q1 = s.q1 := by unfold State.tick; split <;> rfl
@[simp] theorem tick_active (s : State) : (s.tick).active = s.active := by unfold State.tick; split <;> rfl
@[simp] theorem tick_switchPending (s : State) : (s.tick).switchPending = s.switchPending := by unfold State.tick; split <;> rfl
@[simp] theorem tick_phase (s : State) : (s.tick).phase = s.phase := by unfold State.tick; split <;> rfl
@[simp] theorem tick_cursor (s : State) : (s.tick).cursor = s.cursor := by unfold State.tick; split <;> rfl
@[simp] theorem tick_slot (s : State) : (s.tick).slot = s.slot := by unfold State.tick; split <;> rfl
@[simp] theorem tick_asserted (s : State) : (s.tick).asserted = s.asserted := by unfold State.tick; split <;> rfl
@[simp] theorem tick_timerRun (s : State) : (s.tick).timerRun = s.timerRun := by unfold State.tick; split <;> rfl
@[simp] theorem tick_gpioOut (s : State) : (s.tick).gpioOut = s.gpioOut := by unfold State.tick; split <;> rfl
@[simp] theorem tick_plan (s : State) : (s.tick).plan = s.plan := by unfold State.tick; split <;> rfl
@[simp] theorem tick_rsp (s : State) : (s.tick).rsp = s.rsp := by unfold State.tick; split <;> rfl
@[simp] theorem tick_now (s : State) : (s.tick).now = s.now + 1 := by unfold State.tick; split <;> rfl
@[simp] theorem tick_script (s : State) : (s.tick).script = s.script := by unfold State.tick; split <;> rfl
@[simp] theorem tick_draws (s : State) : (s.tick).draws = s.draws := by unfold State.tick; split <;> rfl
@[simp] theorem tick_prepWait (s : State) : (s.tick).prepWait = s.prepWait := by unfold State.tick; split <;> rfl

/-! ### end of queue (R211) -/

@[simp] theorem endOfQueue_cfg (s : State) (p w : U16) : (s.endOfQueue p w).cfg = s.cfg := rfl
@[simp] theorem endOfQueue_ch (s : State) (p w : U16) : (s.endOfQueue p w).ch = s.ch := rfl
@[simp] theorem endOfQueue_periodWidth (s : State) (p w : U16) : (s.endOfQueue p w).periodWidth = s.periodWidth := rfl
@[simp] theorem endOfQueue_pendingUpdates (s : State) (p w : U16) : (s.endOfQueue p w).pendingUpdates = s.pendingUpdates := rfl
@[simp] theorem endOfQueue_q0 (s : State) (p w : U16) : (s.endOfQueue p w).q0 = s.q0 := rfl
@[simp] theorem endOfQueue_q1 (s : State) (p w : U16) : (s.endOfQueue p w).q1 = s.q1 := rfl
@[simp] theorem endOfQueue_active (s : State) (p w : U16) : (s.endOfQueue p w).active = s.active := rfl
@[simp] theorem endOfQueue_switchPending (s : State) (p w : U16) : (s.endOfQueue p w).switchPending = s.switchPending := rfl
@[simp] theorem endOfQueue_phase (s : State) (p w : U16) : (s.endOfQueue p w).phase = 0 := rfl
@[simp] theorem endOfQueue_cursor (s : State) (p w : U16) : (s.endOfQueue p w).cursor = s.cursor := rfl
@[simp] theorem endOfQueue_slot (s : State) (p w : U16) : (s.endOfQueue p w).slot = s.slot := rfl
@[simp] theorem endOfQueue_asserted (s : State) (p w : U16) : (s.endOfQueue p w).asserted = 0 := rfl
@[simp] theorem endOfQueue_timerRun (s : State) (p w : U16) : (s.endOfQueue p w).timerRun = s.timerRun := rfl
@[simp] theorem endOfQueue_timerCnt (s : State) (p w : U16) : (s.endOfQueue p w).timerCnt = satsub p w := rfl
@[simp] theorem endOfQueue_gpioOut (s : State) (p w : U16) : (s.endOfQueue p w).gpioOut = s.gpioOut &&& ~~~ s.asserted := rfl
@[simp] theorem endOfQueue_plan (s : State) (p w : U16) : (s.endOfQueue p w).plan = s.plan := rfl
@[simp] theorem endOfQueue_rsp (s : State) (p w : U16) : (s.endOfQueue p w).rsp = s.rsp := rfl
@[simp] theorem endOfQueue_now (s : State) (p w : U16) : (s.endOfQueue p w).now = s.now := rfl
@[simp] theorem endOfQueue_late (s : State) (p w : U16) : (s.endOfQueue p w).late = 0 := rfl
@[simp] theorem endOfQueue_script (s : State) (p w : U16) : (s.endOfQueue p w).script = s.script := rfl
@[simp] theorem endOfQueue_draws (s : State) (p w : U16) : (s.endOfQueue p w).draws = s.draws := rfl
@[simp] theorem endOfQueue_prepWait (s : State) (p w : U16) : (s.endOfQueue p w).prepWait = s.prepWait := rfl

/-! ### The fields that depend on a condition -/

theorem commit_switchPending (s : State) : s.commit.switchPending = false := by
  unfold State.commit
  split
  · rfl
  · exact Bool.eq_false_iff.mpr ‹_›

theorem commit_active (s : State) : s.commit.active = if s.switchPending then !s.active else s.active := by
  unfold State.commit
  split <;> rfl

theorem tick_timerCnt (s : State) :
    s.tick.timerCnt = if s.timerRun && s.timerCnt != 0 then s.timerCnt - 1 else s.timerCnt := by
  cases hr : s.timerRun <;> by_cases hc : s.timerCnt = 0#16 <;> simp [State.tick, State.due, hr, hc]

theorem tick_late (s : State) : s.tick.late = if s.due then s.late + 1 else s.late := by
  unfold State.tick
  split <;> rfl

/-! ### The buffers by name (R27, R34) -/

theorem setBuf_eq (s : State) (b : Bool) (q : Buffer) :
    s.setBuf b q = { s with q0 := if b then s.q0 else q, q1 := if b then q else s.q1 } := by
  cases b <;> rfl

@[simp] theorem setBuf_q0 (s : State) (b : Bool) (q : Buffer) : (s.setBuf b q).q0 = if b then s.q0 else q := by
  cases b <;> rfl

@[simp] theorem setBuf_q1 (s : State) (b : Bool) (q : Buffer) : (s.setBuf b q).q1 = if b then q else s.q1 := by
  cases b <;> rfl

@[simp] theorem buf_setBuf_same (s : State) (b : Bool) (q : Buffer) : (s.setBuf b q).buf b = q := by
  cases b <;> rfl

@[simp] theorem buf_setBuf_not (s : State) (b : Bool) (q : Buffer) : (s.setBuf (!b) q).buf b = s.buf b := by
  cases b <;> rfl

/-! ### The responses (R95) and RESET (R280) -/

@[simp] theorem respondOk_eq (s : State) (v : U16) : s.respondOk v = s.respond true false v := rfl

@[simp] theorem respondFail_eq (s : State) : s.respondFail = s.respond false false noneValue := rfl

@[simp] theorem respondIllegal_eq (s : State) : s.respondIllegal = s.respond false true noneValue := rfl

@[simp] theorem doReset_cfg (s : State) : s.doReset.cfg = s.cfg := rfl

@[simp] theorem doReset_script (s : State) : s.doReset.script = s.script := rfl

@[simp] theorem doReset_draws (s : State) : s.doReset.draws = s.draws := rfl

@[simp] theorem doReset_prepWait (s : State) : s.doReset.prepWait = none := rfl

end Sys2Proof.Machine
end

