-- ==== Sys2Proof/Laws/Ops.lean ====
section
/-! SUPPORT. What each shared operation can answer, said once: the commit, the sequencer's actions, the two preparations, the
choices of phase A, and the step itself. Callers cite these instead of unfolding the operations. -/

namespace Sys2Proof.Machine

/-! ### The response and the tests of a command (R94, R95, R120, R123) -/

theorem responseWord_ok (v : U16) : responseWord true false v = okWord v := by
  unfold responseWord okWord
  rw [BitVec.append_def, BitVec.setWidth'_eq]
  rfl

/-- OK writes the response and nothing else (R95). -/
theorem respondOk_eq_okWord (s : State) (v : U16) : s.respondOk v = { s with rsp := okWord v } := by
  rw [State.respondOk, State.respond, responseWord_ok]

/-- FAIL writes the response and nothing else (R95). -/
theorem respondFail_eq_failWord (s : State) : s.respondFail = { s with rsp := failWord } := rfl

/-- ILLEGAL writes the response and nothing else (R95, R133). -/
theorem respondIllegal_eq_illegalWord (s : State) : s.respondIllegal = { s with rsp := illegalWord } := rfl

/-- A pin is refused iff it does not exist or is the reserved one (R123). -/
theorem badPin_eq_false_iff (s : State) (pin : U8) : s.badPin pin = false ↔ s.PinExists pin := by
  simp [State.badPin, State.PinExists]

/-- The test of R120, with the record that it finds. -/
theorem validCh_eq_true_iff (s : State) (c : U8) : s.validCh c = true ↔ ∃ r, s.ValidChannel c r := by
  simp only [State.ValidChannel, State.validCh, State.channel, List.getD_eq_getElem?_getD]
  cases h : s.ch[c.toNat]? with
  | none => simp [freeChannel, Channel.assigned]
  | some r => simp [Channel.assigned]

theorem validCh_eq_false (s : State) (c : U8) (h : ∀ r, ¬ s.ValidChannel c r) : s.validCh c = false :=
  Bool.eq_false_iff.2 fun hv => ((validCh_eq_true_iff s c).1 hv).elim h

theorem channel_of_valid (s : State) (c : U8) (r : Channel) (h : s.ValidChannel c r) : s.channel c = r := by
  simp [State.channel, List.getD_eq_getElem?_getD, h.2.1]

/-! ### The sequencer -/

/-- A commit flips the buffers and clears the flag, or finds nothing pending (R193). -/
theorem commit_cases (s : State) :
    (s.switchPending = true ∧ s.commit = { s with switchPending := false, active := !s.active }) ∨
    (s.switchPending = false ∧ s.commit = s) := by
  cases h : s.switchPending
  · exact .inr ⟨rfl, by simp [State.commit, h]⟩
  · exact .inl ⟨rfl, by simp [State.commit, h]⟩

theorem finish_eq_next_iff (r : Except Fault State) (t : State) : finish r = .next t ↔ r = .ok t := by
  cases r <;> simp [finish]

theorem entryAt_eq_ok_iff (s : State) (k : Nat) (x : Entry) :
    s.entryAt k = .ok x ↔ s.activeBuf.e[k]? = some x := by
  unfold State.entryAt
  split <;> simp_all

/-- The next event: the end of the queue at the sentinel, else the entry's width (R209, R210). -/
theorem schedule_cases (s : State) (x : Entry) (prev : U16) :
    (x.id = endId ∧ s.schedule x prev = s.endOfQueue x.pw prev) ∨
    (x.id ≠ endId ∧ s.schedule x prev = { s with timerCnt := satsub x.pw prev, late := 0, phase := 2 }) := by
  by_cases h : x.id = endId
  · exact .inl ⟨h, by rw [State.schedule, if_pos h]⟩
  · exact .inr ⟨h, by rw [State.schedule, if_neg h]; rfl⟩

/-- drain reads the entry under the cursor and the one `skip` further on, and nothing else of the buffer (R210). -/
theorem drain_eq_ok_iff (s t : State) :
    s.drain = .ok t ↔ ∃ x y, s.activeBuf.e[s.cursor.toNat]? = some x ∧
      s.activeBuf.e[s.cursor.toNat + x.skip.toNat]? = some y ∧
      t = State.schedule { s with gpioOut := s.gpioOut &&& ~~~ x.clear,
                                  cursor := BitVec.ofNat 8 (s.cursor.toNat + x.skip.toNat) } y x.pw := by
  unfold State.drain
  cases h : s.entryAt s.cursor.toNat with
  | error f =>
    simp only [reduceCtorEq, false_iff, not_exists, not_and]
    intro x y hx
    rw [(entryAt_eq_ok_iff _ _ _).2 hx] at h
    cases h
  | ok x =>
    have hx := (entryAt_eq_ok_iff _ _ _).1 h
    simp only
    cases h' : s.entryAt (s.cursor.toNat + x.skip.toNat) with
    | error f =>
      simp only [reduceCtorEq, false_iff, not_exists, not_and]
      intro x' y hx' hy
      rw [hx] at hx'
      cases hx'
      rw [(entryAt_eq_ok_iff _ _ _).2 hy] at h'
      cases h'
    | ok y =>
      have hy := (entryAt_eq_ok_iff _ _ _).1 h'
      simp only [Except.ok.injEq]
      constructor
      · rintro rfl
        exact ⟨x, y, hx, hy, rfl⟩
      · rintro ⟨x', y', hx', hy', rfl⟩
        rw [hx] at hx'
        cases hx'
        rw [hy] at hy'
        cases hy'
        rfl

/-- The commit point: the first entry of the committed buffer is the fall-through's, or it is scheduled (R209). -/
theorem awaitCommit_eq_ok_iff (s t : State) :
    s.awaitCommit = .ok t ↔ ∃ x, s.commit.activeBuf.e[0]? = some x ∧
      ((x.id ≠ endId ∧ satsub x.pw s.minPulse = 0 ∧ State.drain { s.commit with cursor := 0 } = .ok t) ∨
       (¬ (x.id ≠ endId ∧ satsub x.pw s.minPulse = 0) ∧
        t = State.schedule { s.commit with cursor := 0 } x s.minPulse)) := by
  have hm : State.minPulse { s.commit with cursor := 0 } = s.minPulse := by simp [State.minPulse]
  have hb : State.activeBuf { s.commit with cursor := 0 } = s.commit.activeBuf := rfl
  unfold State.awaitCommit
  simp only [hm]
  cases h : State.entryAt { s.commit with cursor := 0 } 0 with
  | error f =>
    simp only [reduceCtorEq, false_iff, not_exists, not_and]
    intro x hx
    rw [(entryAt_eq_ok_iff _ _ _).2 (by rw [hb]; exact hx)] at h
    cases h
  | ok x =>
    have hx := (entryAt_eq_ok_iff _ _ _).1 h
    rw [hb] at hx
    simp only
    by_cases hc : x.id ≠ endId ∧ satsub x.pw s.minPulse = 0
    · rw [if_pos hc]
      constructor
      · intro hd
        exact ⟨x, hx, .inl ⟨hc.1, hc.2, hd⟩⟩
      · rintro ⟨x', hx', h1 | h1⟩
        · exact h1.2.2
        · rw [hx] at hx'
          cases hx'
          exact absurd hc h1.1
    · rw [if_neg hc]
      constructor
      · intro hd
        exact ⟨x, hx, .inr ⟨hc, (Except.ok.inj hd).symm⟩⟩
      · rintro ⟨x', hx', h1 | h1⟩ <;> rw [hx] at hx' <;> cases hx'
        · exact absurd ⟨h1.1, h1.2.1⟩ hc
        · exact congrArg _ h1.2.symm

/-! ### The preparations -/

/-- The whole effect of a rebuild: the non-active buffer, the flag, the plan, and what start and restart write (R160). -/
theorem rebuild_eq (s : State) (a b : Bool) :
    s.rebuild a b =
      { s.setBuf (!s.active) (s.rebuiltBuffer s.idleBuf) with
        switchPending := true
        plan := Plan.idle
        phase := if a || b then 0 else s.phase
        cursor := if a || b then 0 else s.cursor
        timerCnt := if a || b then 0 else s.timerCnt
        late := if a || b then 0 else s.late
        slot := if a then 0 else s.slot
        asserted := if a then 0 else s.asserted
        timerRun := if a then true else s.timerRun } := by
  cases a <;> cases b <;> cases h : s.active <;>
    simp [State.rebuild, State.rebuildPublish, State.setBuf, State.publish, State.start, State.restart,
      State.loadTimer, h]

/-- PREP.INCR, when it does not stop, rebuilds (R181) or leaves the source with one entry moved (R175). -/
theorem incr_eq_ok (s t : State) (h : s.incr = .ok t) :
    s.incrSource.rest ≠ [] ∧ (∀ x ∈ s.incrSource.live, x.id.toNat < s.cfg.n) ∧
    ((updateWidth s.plan.ch s.plan.pw s.incrSource.live = none ∧
      t = (s.setBuf (!s.active) s.incrSource).rebuild false false) ∨
     ∃ es, updateWidth s.plan.ch s.plan.pw s.incrSource.live = some es ∧
      t = { s.setBuf (!s.active) ⟨s.annotate es ++ s.incrSource.rest, s.incrSource.set⟩ with
            switchPending := true, plan := Plan.idle }) := by
  unfold State.incr at h
  simp only at h
  split at h
  · cases h
  · rename_i hr
    split at h
    · cases h
    · rename_i hid
      refine ⟨hr, by simpa using hid, ?_⟩
      split at h
      · rename_i hu
        exact .inl ⟨hu, (Except.ok.inj h).symm⟩
      · rename_i es hu
        refine .inr ⟨es, hu, ?_⟩
        rw [← Except.ok.inj h]
        cases ha : s.active <;> simp [State.setBuf, State.publish, ha]

/-- PREP.INCR does not stop when its source has a sentinel and legal ids (R178, U5). -/
theorem incr_goes (s : State) (hr : s.incrSource.rest ≠ []) (hid : ∀ x ∈ s.incrSource.live, x.id.toNat < s.cfg.n) :
    ∃ t, s.incr = .ok t := by
  unfold State.incr
  have hid' : s.incrSource.live.any (fun x => decide (s.cfg.n ≤ x.id.toNat)) = false := by simpa using hid
  simp only [hr, if_false, hid', Bool.false_eq_true]
  split <;> exact ⟨_, rfl⟩

/-! ### The choices of phase A -/

/-- A mask that is already there changes nothing; another one is written and a rebuild chosen (R124, R128). -/
theorem changeMask_cases (s : State) (i : Nat) (m : U8) :
    ((s.ch.getD i freeChannel).mask = m ∧ s.changeMask i m = s) ∨
    ((s.ch.getD i freeChannel).mask ≠ m ∧
      s.changeMask i m =
        (s.setChannel i { s.ch.getD i freeChannel with mask := m }).chooseRebuild false false) := by
  by_cases h : (s.ch.getD i freeChannel).mask = m
  · exact .inl ⟨h, by simp only [State.changeMask, h, if_true]⟩
  · exact .inr ⟨h, by simp only [State.changeMask, h, if_false]⟩

/-- After a width change: count it, or choose the update, or choose the rebuild (R126). -/
theorem widthChanged_cases (s : State) (b : Bool) (c : U8) (w : U16) :
    (b = true ∧ s.widthChanged b c w = { s with pendingUpdates := satinc8 s.pendingUpdates }) ∨
    (b = false ∧ s.pendingUpdates = 0 ∧ s.widthChanged b c w = s.chooseIncr c w) ∨
    (b = false ∧ s.pendingUpdates ≠ 0 ∧ s.widthChanged b c w = s.chooseRebuild false false) := by
  cases b
  · by_cases h : s.pendingUpdates = 0
    · exact .inr (.inl ⟨rfl, h, by rw [State.widthChanged, if_neg Bool.false_ne_true, if_pos h]⟩)
    · exact .inr (.inr ⟨rfl, h, by rw [State.widthChanged, if_neg Bool.false_ne_true, if_neg h]⟩)
  · exact .inl ⟨rfl, by rw [State.widthChanged, if_pos rfl]⟩

theorem satinc8_ne_zero (v : U8) : satinc8 v ≠ 0 := by
  unfold satinc8
  split <;> bv_omega

/-- set_period_common: too short, unchanged, or a new period with re-clamped widths (R130). -/
theorem setPeriodCommon_cases (s : State) (p : U16) :
    (p.toNat < 2 * s.cfg.minPulse ∧ s.setPeriodCommon p = s.respondFail) ∨
    (2 * s.cfg.minPulse ≤ p.toNat ∧ p = s.periodWidth ∧ s.setPeriodCommon p = s.respondOk 0) ∨
    (2 * s.cfg.minPulse ≤ p.toNat ∧ p ≠ s.periodWidth ∧ s.timerRun = true ∧
      s.setPeriodCommon p = ((s.withPeriod p).chooseRebuild false false).respondOk 0) ∨
    (2 * s.cfg.minPulse ≤ p.toNat ∧ p ≠ s.periodWidth ∧ s.timerRun = false ∧
      s.setPeriodCommon p = ((s.withPeriod p).emptyBuffers p).respondOk 0) := by
  unfold State.setPeriodCommon
  by_cases h : p.toNat < 2 * s.cfg.minPulse
  · exact .inl ⟨h, by rw [if_pos h]⟩
  · have h' : 2 * s.cfg.minPulse ≤ p.toNat := Nat.le_of_not_lt h
    rw [if_neg h]
    by_cases hp : p = s.periodWidth
    · exact .inr (.inl ⟨h', hp, by rw [if_pos hp]⟩)
    · rw [if_neg hp]
      by_cases hr : s.timerRun = true
      · exact .inr (.inr (.inl ⟨h', hp, hr, by rw [if_pos hr]⟩))
      · exact .inr (.inr (.inr ⟨h', hp, Bool.eq_false_iff.2 hr, by rw [if_neg hr]⟩))

/-! ### The step -/

/-- A clock move is a tick or an expiry step, and is enabled (R17, R206, U3). -/
theorem clockMove_cases (s : State) :
    (s.clockMove = .expire ∧ s.due = true) ∨ (s.clockMove = .tick ∧ s.tickEnabled = true) := by
  unfold State.clockMove State.tickEnabled
  cases s.due <;> cases decide (s.late < s.cfg.latMax) <;> cases Config.freeOnTime s.draws <;> simp

/-- The next move is the script's first; or, without a script, an owed preparation whose wait is over, or a clock move,
which leaves one move less to wait for a preparation that is owed. Only the model's own fields change (R17). -/
theorem nextMove_cases (s : State) :
    (∃ m ms, s.script = m :: ms ∧ s.nextMove = (m, { s with script := ms })) ∨
    (s.script = [] ∧ s.busy = true ∧ s.prepWait.getD (Config.freePrepWait s.draws) = 0 ∧
      s.nextMove = (.prepare, { s with draws := s.draws + 1, prepWait := none })) ∨
    (s.script = [] ∧ ∃ w, s.nextMove = (s.clockMove, { s with draws := s.draws + 1, prepWait := w }) ∧
      (s.busy = true → ∃ n, w = some n ∧ s.prepWait.getD (Config.freePrepWait s.draws) = n + 1)) := by
  unfold State.nextMove
  split
  · exact .inl ⟨_, _, ‹_›, rfl⟩
  · split
    · split
      · exact .inr (.inl ⟨‹_›, ‹_›, ‹_›, rfl⟩)
      · exact .inr (.inr ⟨‹_›, _, rfl, fun _ => ⟨_, rfl, ‹_›⟩⟩)
    · exact .inr (.inr ⟨‹_›, _, rfl, fun h => absurd h ‹_›⟩)

/-- An unscripted move is enabled: phase B, the expiry step or the tick (R17). -/
theorem nextMove_enabled (s : State) (h : s.script = []) :
    s.nextMove.2.enabled s.nextMove.1 = true ∧
    ∃ d w, s.nextMove.2 = { s with draws := d, prepWait := w } := by
  rcases nextMove_cases s with ⟨m, ms, hm, -⟩ | ⟨-, hb, -, e⟩ | ⟨-, w, e, -⟩
  · exact absurd (h.symm.trans hm) (by simp)
  · rw [e]
    exact ⟨hb, _, _, rfl⟩
  · rw [e]
    rcases clockMove_cases s with ⟨hc, hd⟩ | ⟨hc, hd⟩ <;> rw [hc] <;> exact ⟨hd, _, _, rfl⟩

/-- A step offers the next move (R17, U13). -/
theorem step_eq (s : State) (h : s.cfg.valid = true) : step s = s.nextMove.2.offer s.nextMove.1 := by
  simp [step, h]

/-- A step that answers a next state had legal parameters. -/
theorem step_next_valid (s t : State) (h : step s = .next t) : s.cfg.valid = true := by
  by_contra hc
  simp [step, hc] at h

end Sys2Proof.Machine
end

