-- ==== Sys2Proof/Laws/PerInstr.lean ====
section
/-! SUPPORT. The per-instruction family EncodeLegal: the encoding of every instruction is a legal code, one lemma per
constructor (30_encoding.md R92, R93, R97, R98). -/

namespace Sys2Proof.Laws.EncodeLegal

/-- The instruction's encoding is a code that a row of the opcode table covers (R92, R97, R98). -/
def Statement (i : Instr) : Prop := (encode i).legal = true

/-- A word that one of the nine rows covers is legal. -/
theorem legal_of_row (w : U32) (r : CmdRow) (hr : r ∈ cmdRows) (h : w &&& r.mask = r.pattern) :
    (Code.cmd w).legal = true :=
  List.any_eq_true.2 ⟨r, hr, by simp [CmdRow.covers, h]⟩

theorem mask_operand_and (m : U8) : m.setWidth 16 &&& 65280#16 = 0#16 :=
  (operand_and_high _).2 (maskOperand_high m)

theorem attach (pin : U8) : Statement (.attach pin) :=
  legal_of_row _ ⟨0xFF00FFFF, 0x10000000⟩ (by decide) ((covers_iff _ 15 1 1 0 7 0 0 0 0xFFFF 0).2 (by simp [cmdWord_eq]))

theorem attachf (pin mask : U8) : Statement (.attachf pin mask) :=
  legal_of_row _ ⟨0xFF00FF00, 0x20000000⟩ (by decide)
    ((covers_iff _ 15 2 1 0 7 0 0 0 0xFF00 0).2 (by simp [cmdWord_eq, mask_operand_and]))

theorem detach (ch : U8) : Statement (.detach ch) :=
  legal_of_row _ ⟨0xFF00FFFF, 0x30000000⟩ (by decide) ((covers_iff _ 15 3 1 0 7 0 0 0 0xFFFF 0).2 (by simp [cmdWord_eq]))

theorem setPulse (b : Bool) (ch : U8) (width : U16) : Statement (.setPulse b ch width) :=
  legal_of_row _ ⟨0xF7000000, 0x40000000⟩ (by decide) ((covers_iff _ 15 4 0 0 7 0 0 0 0 0).2 (by simp [cmdWord_eq]))

theorem getPulse (ch : U8) : Statement (.getPulse ch) :=
  legal_of_row _ ⟨0xFF00FFFF, 0x50000000⟩ (by decide) ((covers_iff _ 15 5 1 0 7 0 0 0 0xFFFF 0).2 (by simp [cmdWord_eq]))

theorem setFreq (ch mask : U8) : Statement (.setFreq ch mask) :=
  legal_of_row _ ⟨0xFF00FF00, 0x60000000⟩ (by decide)
    ((covers_iff _ 15 6 1 0 7 0 0 0 0xFF00 0).2 (by simp [cmdWord_eq, mask_operand_and]))

theorem setBaseFreq (hz : U16) : Statement (.setBaseFreq hz) :=
  legal_of_row _ ⟨0xFFFF0000, 0x70000000⟩ (by decide) ((covers_iff _ 15 7 1 0 7 0 0xFF 0 0 0).2 (by simp [cmdWord_eq]))

theorem setPeriod (width : U16) : Statement (.setPeriod width) :=
  legal_of_row _ ⟨0xFFFF0000, 0x80000000⟩ (by decide) ((covers_iff _ 15 8 1 0 7 0 0xFF 0 0 0).2 (by simp [cmdWord_eq]))

theorem forceResync : Statement .forceResync :=
  legal_of_row _ ⟨0xFFFFFFFF, 0x90000000⟩ (by decide) ((covers_iff _ 15 9 1 0 7 0 0xFF 0 0xFFFF 0).2 (by simp [cmdWord_eq]))

theorem prepRebuild : Statement .prepRebuild := rfl

theorem prepIncr : Statement .prepIncr := rfl

theorem expireAllHigh : Statement .expireAllHigh := rfl

theorem expireAwaitCommit : Statement .expireAwaitCommit := rfl

theorem expireDraining : Statement .expireDraining := rfl

end Sys2Proof.Laws.EncodeLegal
end

