-- ==== Sys2Proof/Laws/Prepared.lean ====
section
/-! SUPPORT. What the two preparations leave in a buffer (41_queue_builder.md R165, 42_incremental_updater.md R178 to R183): a
complete buffer that mirrors the Channel Table; and where the cursor steps in it (44_sequencer.md R219). -/

namespace Sys2Proof.Machine

/-- The constraints of R6 to R11, one by one. -/
theorem valid_bounds {c : Config} (h : c.valid = true) :
    1 ≤ c.n ∧ c.n ≤ 32 ∧ 1 ≤ c.npins ∧ c.npins ≤ 255 ∧ 1 ≤ c.minPulse ∧ c.minPulse ≤ 32767 ∧ 1 ≤ c.join ∧ c.join ≤ 255 ∧
    c.defaultPulse ≤ 65535 ∧ 2 * c.minPulse ≤ c.defaultPeriod ∧ c.defaultPeriod ≤ 65535 := by
  simp only [Config.valid, Bool.and_eq_true, decide_eq_true_eq] at h
  omega

/-- `EMPTY(p)` is a complete buffer for every legal period (R32). -/
theorem complete_empty (c : Config) (p : U16) (hp : 2 * c.minPulse ≤ p.toNat) :
    (emptyBuffer c.n p).Complete c := by
  have hr := rest_emptyBuffer c.n p
  have hl := live_emptyBuffer c.n p
  have hper : (emptyBuffer c.n p).period = p := by simp [Buffer.period, hr, List.replicate_succ, sentinel]
  refine ⟨?_, ?_, ?_, ?_, ?_, ?_, ?_, ?_, ?_⟩
  · rw [hper, hr]; simp [List.replicate_succ]
  · rw [hl]; exact List.Pairwise.nil
  · rw [hper]; exact hp
  · rw [hl]; simp
  · rw [hl]; simp
  · rw [hl]; simp
  · rw [hl]; rfl
  · rw [hl]; simp
  · simp [emptyBuffer, fits]

/-- The bitmap of a pin that exists has no bit at or above NPINS (R7, R15). -/
theorem fits_pinBits {c : Config} {p : U8} (hn : c.npins ≤ 255) (h : p ≠ unassigned → p.toNat < c.npins) : fits c.npins (pinBits p) := by
  unfold pinBits
  split
  · simp [fits]
  · rename_i hp
    have := h hp
    rw [fits, pinbit, BitVec.toNat_twoPow]
    rw [Nat.mod_eq_of_lt (Nat.pow_lt_pow_right (by decide) (by omega))]
    exact Nat.pow_lt_pow_right (by decide) this

/-- A channel lookup finds a record of the table, or a free slot. -/
theorem channel_mem_or {s : State} (c : U8) : s.channel c ∈ s.ch ∨ s.channel c = freeChannel := by
  unfold State.channel
  rw [List.getD_eq_getElem?_getD]
  by_cases h : c.toNat < s.ch.length
  · left; rw [List.getElem?_eq_getElem h]; exact List.getElem_mem h
  · right; rw [List.getElem?_eq_none (by omega)]; rfl

/-- The clear bitmap of a channel has no bit at or above NPINS (R237). -/
theorem fits_clearOf {s : State} (hs : s.Shape) (hp : s.PinsOk) (id : U8) : fits s.cfg.npins (s.clearOf id) := by
  have hv := valid_bounds hs.1
  refine fits_pinBits (by omega) fun hne => ?_
  rcases channel_mem_or (s := s) id with h | h
  · exact hp.1 _ h (by simpa [Channel.assigned] using hne)
  · rw [h] at hne; exact absurd rfl hne

/-- A set bitmap has no bit at or above NPINS (R236). -/
theorem fits_setBitmap {s : State} (hs : s.Shape) (hp : s.PinsOk) (k : Nat) : fits s.cfg.npins (setBitmap s.ch k) := by
  have hv := valid_bounds hs.1
  have gen : ∀ (l : List Channel) (m : Pins), (∀ c ∈ l, c.assigned = true → c.pin.toNat < s.cfg.npins) → fits s.cfg.npins m →
      fits s.cfg.npins (l.foldl (fun m c => m ||| c.slotBits k) m) := by
    intro l
    induction l with
    | nil => intro m _ hm; exact hm
    | cons c cs ih =>
      intro m hl hm
      refine ih _ (fun d hd => hl d (List.mem_cons_of_mem _ hd)) (fits_or hm ?_)
      unfold Channel.slotBits
      split
      · rename_i h
        simp only [Bool.and_eq_true] at h
        have h1 := hl c (by simp) h.1
        have := fits_pinBits (c := s.cfg) (p := c.pin) (by omega) (fun _ => h1)
        unfold pinBits at this
        rw [if_neg (by simpa [Channel.assigned] using h.1)] at this
        exact this
      · simp [fits]
  exact gen s.ch 0 hp.1 (by simp [fits])

/-- All eight set bitmaps fit (R236). -/
theorem setBitmaps_fits {s : State} (hs : s.Shape) (hp : s.PinsOk) :
    (setBitmaps s.ch).toList.all (fun m => decide (fits s.cfg.npins m)) = true := by
  rw [List.all_eq_true]
  intro m hm
  obtain ⟨i, hi, rfl⟩ := List.getElem_of_mem hm
  simp only [setBitmaps, Vector.toList_ofFn, List.getElem_ofFn]
  exact decide_eq_true (fits_setBitmap hs hp _)

/-- The id of a collected entry is the channel's index (R160). -/
theorem toEntry_id_toNat (c : Channel) (k : Nat) (h : k < 256) : (c.toEntry k).id.toNat = k := by
  simp [Channel.toEntry]; omega

/-- A lookup by id finds the record at that index. -/
theorem channel_of_getElem? {s : State} {k : Nat} {c : Channel} (h : s.ch[k]? = some c) (hk : k < 256) :
    s.channel (BitVec.ofNat 8 k) = c := by
  unfold State.channel
  rw [List.getD_eq_getElem?_getD, BitVec.toNat_ofNat, Nat.mod_eq_of_lt hk, h]; rfl

/-- A rebuild numbers only channels of the table (R161). -/
theorem sortedEntries_ids_lt {s : State} (hs : s.Shape) : ∀ x ∈ s.sortedEntries, x.id.toNat < s.cfg.n := by
  have hv := valid_bounds hs.1
  intro x hx
  obtain ⟨k, c, hk, -, rfl⟩ := (mem_sortedEntries s x).1 hx
  have := (List.getElem?_eq_some_iff.1 hk).1
  rw [toEntry_id_toNat _ _ (by have := hs.2.1; omega)]
  have := hs.2.1; omega

/-- No channel id is END (R96). -/
theorem end_ne_of_lt {id : U8} {n : Nat} (hn : n ≤ 32) (h : id.toNat < n) : id ≠ endId := by
  intro h'; subst h'; simp at h; omega

/-- A rebuild holds the assigned ids (R161). -/
theorem sortedEntries_ids_perm (s : State) : (s.sortedEntries.map Entry.id).Perm s.assignedIds :=
  (sortedEntries_perm s).map _

/-- The assigned ids are distinct (R48). -/
theorem assignedIds_nodup {s : State} (hs : s.Shape) : s.assignedIds.Nodup := by
  have hv := valid_bounds hs.1
  have := collectFrom_ids_sorted 0 s.ch (by have := hs.2.1; omega)
  unfold State.assignedIds
  rw [List.Nodup, List.pairwise_map]
  exact this.imp (fun h => by intro h'; rw [h'] at h; omega)

/-- The entries of a rebuilt buffer (R160). -/
theorem rebuilt_live {s : State} (hs : s.Shape) (old : Buffer) : (s.rebuiltBuffer old).live = s.annotate s.sortedEntries := by
  have hv := valid_bounds hs.1
  refine live_mk _ _ _ _ ?_ rfl
  intro x hx
  have := (annotate_forall s.cfg.join s.clearOf s.sortedEntries (fun id _ => id.toNat < s.cfg.n)).2 (sortedEntries_ids_lt hs) x hx
  exact end_ne_of_lt hv.2.1 this

/-- The sentinel of a rebuilt buffer, and what it leaves after it (R160, R163). -/
theorem rebuilt_rest {s : State} (hs : s.Shape) (old : Buffer) :
    (s.rebuiltBuffer old).rest = sentinel s.periodWidth :: old.e.drop (s.sortedEntries.length + 1) := by
  have hv := valid_bounds hs.1
  refine rest_mk _ _ _ _ ?_ rfl
  intro x hx
  have := (annotate_forall s.cfg.join s.clearOf s.sortedEntries (fun id _ => id.toNat < s.cfg.n)).2 (sortedEntries_ids_lt hs) x hx
  exact end_ne_of_lt hv.2.1 this

/-- A rebuilt buffer freezes the current period (R163). -/
theorem rebuilt_period {s : State} (hs : s.Shape) (old : Buffer) : (s.rebuiltBuffer old).period = s.periodWidth := by
  simp [Buffer.period, rebuilt_rest hs, sentinel]

/-- A rebuilt buffer is complete (R165). -/
theorem rebuilt_complete {s : State} (hs : s.Shape) (hp : s.PinsOk) (hb : s.BandOk) (old : Buffer) :
    (s.rebuiltBuffer old).Complete s.cfg := by
  have hv := valid_bounds hs.1
  refine ⟨?_, ?_, ?_, ?_, ?_, ?_, ?_, ?_, ?_⟩
  · rw [rebuilt_period hs, rebuilt_rest hs]; rfl
  · rw [rebuilt_live hs]
    exact (annotate_pairwise_pw _ _ _ (fun a b => a ≤ b)).2 (sortedEntries_pw_sorted s)
  · rw [rebuilt_period hs]; exact hb.1
  · rw [rebuilt_live hs, rebuilt_period hs]
    refine (annotate_forall _ _ _ (fun _ pw => s.cfg.minPulse ≤ pw.toNat ∧ pw.toNat + s.cfg.minPulse ≤ s.periodWidth.toNat)).2 ?_
    intro x hx
    obtain ⟨k, c, hk, ha, rfl⟩ := (mem_sortedEntries s x).1 hx
    exact hb.2 c (List.mem_of_getElem? hk) ha
  · rw [rebuilt_live hs, State.annotate, annotate_map_id]
    exact (sortedEntries_ids_perm s).nodup_iff.2 (assignedIds_nodup hs)
  · rw [rebuilt_live hs]
    exact (annotate_forall _ _ _ (fun id _ => id.toNat < s.cfg.n)).2 (sortedEntries_ids_lt hs)
  · rw [rebuilt_live hs]; exact annotate_skipsOk _ _ _
  · rw [rebuilt_live hs]; exact annotate_fits _ _ _ _ (fun x _ => fits_clearOf hs hp _)
  · exact setBitmaps_fits hs hp

/-- A rebuilt buffer mirrors the Channel Table (R165). -/
theorem rebuilt_mirrors {s : State} (hs : s.Shape) (old : Buffer) : s.Mirrors (s.rebuiltBuffer old) := by
  refine ⟨?_, rebuilt_period hs old, rfl, ?_⟩
  · rw [rebuilt_live hs, State.annotate, annotate_map_id]; exact sortedEntries_ids_perm s
  · rw [rebuilt_live hs]; exact (annotate_idem _ _ _).symm

/-- A rebuilt buffer has the table's widths (R165). -/
theorem rebuilt_widths {s : State} (hs : s.Shape) (old : Buffer) :
    ∀ x ∈ (s.rebuiltBuffer old).live, x.pw = (s.channel x.id).pw := by
  have hv := valid_bounds hs.1
  rw [rebuilt_live hs]
  refine (annotate_forall _ _ _ (fun id pw => pw = (s.channel id).pw)).2 ?_
  intro x hx
  obtain ⟨k, c, hk, ha, rfl⟩ := (mem_sortedEntries s x).1 hx
  have := (List.getElem?_eq_some_iff.1 hk).1
  show c.pw = (s.channel (BitVec.ofNat 8 k)).pw
  rw [channel_of_getElem? hk (by have := hs.2.1; omega)]

/-- A rebuild keeps the number of entries (R27). -/
theorem rebuilt_length {s : State} (hs : s.Shape) (old : Buffer) (ho : old.e.length = s.cfg.n + 1) :
    (s.rebuiltBuffer old).e.length = s.cfg.n + 1 := by
  have := sortedEntries_length_le s
  have := hs.2.1
  simp [State.rebuiltBuffer, State.annotate, ho]; omega

/-- `valid(c)` in a table of N records (R120). -/
theorem validCh_iff {s : State} (hs : s.Shape) (c : U8) :
    s.validCh c = true ↔ ∃ r, s.ch[c.toNat]? = some r ∧ r.assigned = true := by
  unfold State.validCh State.channel
  rw [List.getD_eq_getElem?_getD]
  by_cases h : c.toNat < s.cfg.n
  · have h' : c.toNat < s.ch.length := by have := hs.2.1; omega
    simp [h, List.getElem?_eq_getElem h']
  · have h' : s.ch.length ≤ c.toNat := by have := hs.2.1; omega
    simp only [h, decide_false, Bool.false_and, Bool.false_eq_true, List.getElem?_eq_none h', reduceCtorEq, false_and, exists_false]

/-- A lookup by id finds the record at that index. -/
theorem channel_eq_of {s : State} {c : U8} {r : Channel} (h : s.ch[c.toNat]? = some r) : s.channel c = r := by
  simp [State.channel, List.getD_eq_getElem?_getD, h]

/-- The assigned ids are the valid ones (R120, R161). -/
theorem mem_assignedIds {s : State} (hs : s.Shape) (c : U8) : c ∈ s.assignedIds ↔ s.validCh c = true := by
  have hv := valid_bounds hs.1
  rw [validCh_iff hs]
  unfold State.assignedIds
  rw [List.mem_map]
  constructor
  · rintro ⟨x, hx, rfl⟩
    obtain ⟨k, r, hk, ha, rfl⟩ := (mem_collectFrom x 0 s.ch).1 hx
    have hlt := (List.getElem?_eq_some_iff.1 hk).1
    refine ⟨r, ?_, ha⟩
    rw [toEntry_id_toNat _ _ (by have := hs.2.1; omega), Nat.zero_add]; exact hk
  · rintro ⟨r, hr, ha⟩
    refine ⟨r.toEntry c.toNat, (mem_collectFrom _ 0 s.ch).2 ⟨c.toNat, r, hr, ha, by simp⟩, ?_⟩
    simp [Channel.toEntry]

/-- A complete buffer has a sentinel record after its entries (R32). -/
theorem rest_eq_of_complete {q : Buffer} {c : Config} (h : q.Complete c) : ∃ tl, q.rest = sentinel q.period :: tl := by
  have := h.1
  cases hr : q.rest with
  | nil => simp [hr] at this
  | cons z tl => rw [hr] at this; simp at this; exact ⟨tl, by rw [← this]⟩

/-- What an update leaves of a buffer that mirrors the table but for one channel: a complete buffer that mirrors the
table, with the table's widths and as many entries (R175 to R182). -/
theorem updated_facts {s : State} (hs : s.Shape) (hp : s.PinsOk) (hb : s.BandOk) {q : Buffer} (hq : q.Complete s.cfg) (hm : s.Mirrors q)
    {c : U8} (hc : s.validCh c = true) (hw : ∀ x ∈ q.live, x.id ≠ c → x.pw = (s.channel x.id).pw) :
    ∃ es, updateWidth c (s.channel c).pw q.live = some es ∧
      let q' : Buffer := ⟨s.annotate es ++ q.rest, q.set⟩
      q'.Complete s.cfg ∧ s.Mirrors q' ∧ (∀ x ∈ q'.live, x.pw = (s.channel x.id).pw) ∧ q'.e.length = q.e.length := by
  have hv := valid_bounds hs.1
  obtain ⟨tl, hrest⟩ := rest_eq_of_complete hq
  obtain ⟨h1, h2, h3, h4, h5, h6, h7, h8, h9⟩ := hq
  cases hu : updateWidth c (s.channel c).pw q.live with
  | none =>
    exfalso
    have hn := (updateWidth_eq_none_iff _ _ _).1 hu
    have : c ∈ q.live.map Entry.id := hm.1.mem_iff.2 ((mem_assignedIds hs c).2 hc)
    obtain ⟨x, hx, hxc⟩ := List.mem_map.1 this
    exact hn x hx hxc
  | some es =>
    refine ⟨es, rfl, ?_⟩
    obtain ⟨left, x, right, hlive, hxid, hleft, rfl⟩ := updateWidth_eq_some _ _ _ _ hu
    set y : Entry := { x with pw := (s.channel c).pw } with hy
    set es := bubble left y right with hes
    have hperm : es.Perm (left ++ y :: right) := bubble_perm left right y
    have hids : (es.map Entry.id).Perm (q.live.map Entry.id) := by
      have : (left ++ y :: right).map Entry.id = q.live.map Entry.id := by rw [hlive]; simp [hy]
      rw [← this]; exact hperm.map _
    have hrightne : ∀ z ∈ right, z.id ≠ c := by
      intro z hz hzc
      rw [hlive, List.map_append, List.map_cons, List.nodup_append] at h5
      have := (List.nodup_cons.1 h5.2.1).1
      rw [hxid] at this
      exact this (List.mem_map.2 ⟨z, hz, hzc⟩)
    have hwall : ∀ z ∈ es, z.pw = (s.channel z.id).pw := by
      intro z hz
      have hz' := hperm.mem_iff.1 hz
      rcases List.mem_append.1 hz' with hz' | hz'
      · exact hw z (by rw [hlive]; exact List.mem_append_left _ hz') (hleft z hz')
      · rcases List.mem_cons.1 hz' with rfl | hz'
        · simp [hy, hxid]
        · exact hw z (by rw [hlive]; simp [hz']) (hrightne z hz')
    have hvalid : ∀ z ∈ es, s.validCh z.id = true := by
      intro z hz
      rw [← mem_assignedIds hs, ← hm.1.mem_iff, ← hids.mem_iff]
      exact List.mem_map.2 ⟨z, hz, rfl⟩
    have hlt : ∀ z ∈ es, z.id.toNat < s.cfg.n := by
      intro z hz
      have := hvalid z hz
      simp [State.validCh] at this; exact this.1
    have hltA : ∀ z ∈ s.annotate es, z.id.toNat < s.cfg.n :=
      (annotate_forall _ _ _ (fun id _ => id.toNat < s.cfg.n)).2 hlt
    have hne : ∀ z ∈ s.annotate es, z.id ≠ endId := fun z hz => end_ne_of_lt hv.2.1 (hltA z hz)
    have hL : Buffer.live ⟨s.annotate es ++ q.rest, q.set⟩ = s.annotate es := by
      rw [hrest]; exact live_mk _ _ _ _ hne rfl
    have hR : Buffer.rest ⟨s.annotate es ++ q.rest, q.set⟩ = q.rest := by
      rw [hrest]; exact rest_mk _ _ _ _ hne rfl
    have hP : Buffer.period ⟨s.annotate es ++ q.rest, q.set⟩ = q.period := by
      simp only [Buffer.period, hR]
    have hlr : (left ++ right).Pairwise (fun a b : Entry => a.pw ≤ b.pw) := by
      rw [hlive] at h2
      exact h2.sublist (List.Sublist.append_left (List.sublist_cons_self _ _) _)
    refine ⟨⟨?_, ?_, ?_, ?_, ?_, ?_, ?_, ?_, ?_⟩, ⟨?_, ?_, ?_, ?_⟩, ?_, ?_⟩
    · rw [hP, hR]; exact h1
    · rw [hL]; exact (annotate_pairwise_pw _ _ _ (fun a b => a ≤ b)).2 (bubble_sorted _ _ _ hlr)
    · rw [hP]; exact h3
    · rw [hL, hP, hm.2.1]
      refine (annotate_forall _ _ _ (fun _ pw => s.cfg.minPulse ≤ pw.toNat ∧ pw.toNat + s.cfg.minPulse ≤ s.periodWidth.toNat)).2 ?_
      intro z hz
      obtain ⟨r, hr, ha⟩ := (validCh_iff hs _).1 (hvalid z hz)
      show s.cfg.minPulse ≤ z.pw.toNat ∧ z.pw.toNat + s.cfg.minPulse ≤ s.periodWidth.toNat
      rw [hwall z hz, channel_eq_of hr]
      exact hb.2 r (List.mem_of_getElem? hr) ha
    · rw [hL, State.annotate, annotate_map_id]; exact hids.nodup_iff.2 h5
    · rw [hL]; exact hltA
    · rw [hL]; exact annotate_skipsOk _ _ _
    · rw [hL]; exact annotate_fits _ _ _ _ (fun x _ => fits_clearOf hs hp _)
    · exact h9
    · rw [hL, State.annotate, annotate_map_id]; exact hids.trans hm.1
    · rw [hP]; exact hm.2.1
    · exact hm.2.2.1
    · rw [hL]; exact (annotate_idem _ _ _).symm
    · rw [hL]; exact (annotate_forall _ _ _ (fun id pw => pw = (s.channel id).pw)).2 hwall
    · have : es.length = q.live.length := by rw [hperm.length_eq, hlive]; simp
      have h0 := congrArg List.length (live_append_rest q)
      simp [State.annotate, this] at h0 ⊢; omega

/-- A group head is one by its left neighbour alone (R238). -/
theorem isHead_shift (j : Nat) (x : Entry) (l : List Entry) (m : Nat) (hm : 1 ≤ m) :
    isHead j (x :: l) (m + 1) = isHead j l m := by
  obtain ⟨m, rfl⟩ : ∃ k, m = k + 1 := ⟨m - 1, by omega⟩
  simp [isHead]

/-- Where the skip counts are as annotated, the cursor steps from an entry to a group head or to the sentinel (R219). -/
theorem skipsOk_spec (j : Nat) (es : List Entry) (h : skipsOk j es = true) (hlen : es.length ≤ 255) :
    ∀ k x, es[k]? = some x → 1 ≤ x.skip.toNat ∧ k + x.skip.toNat ≤ es.length ∧ isHead j es (k + x.skip.toNat) = true := by
  induction es with
  | nil => simp
  | cons x xs ih =>
    cases xs with
    | nil =>
      intro k y hy
      cases k with
      | zero => simp at hy; subst hy; simp [skipsOk] at h; simp [h, isHead]
      | succ k => simp at hy
    | cons y ys =>
      simp only [skipsOk, Bool.and_eq_true, beq_iff_eq] at h
      have ih' := ih h.2 (by simp at hlen ⊢; omega)
      intro k z hz
      cases k with
      | zero =>
        simp at hz; subst hz
        obtain ⟨i1, i2, i3⟩ := ih' 0 y rfl
        by_cases hj : joins j x y
        · have hs : x.skip.toNat = y.skip.toNat + 1 := by
            rw [h.1, if_pos hj, BitVec.toNat_add]; simp at hlen i2 ⊢; omega
          rw [hs]
          refine ⟨by omega, by simp at i2 ⊢; omega, ?_⟩
          rw [show 0 + (y.skip.toNat + 1) = (0 + y.skip.toNat) + 1 by omega, isHead_shift _ _ _ _ (by omega)]
          exact i3
        · have hs : x.skip.toNat = 1 := by rw [h.1, if_neg hj]; rfl
          rw [hs]
          refine ⟨by omega, by simp, ?_⟩
          simpa [isHead] using hj
      | succ k =>
        obtain ⟨i1, i2, i3⟩ := ih' k z (by simpa using hz)
        refine ⟨i1, by simp at i2 ⊢; omega, ?_⟩
        rw [show k + 1 + z.skip.toNat = (k + z.skip.toNat) + 1 by omega, isHead_shift _ _ _ _ (by omega)]
        exact i3

end Sys2Proof.Machine
end

