-- ==== Sys2Proof/Laws/Shape.lean ====
section
/-! SUPPORT. The storage keeps its canonical form (`State.Shape`: N channel records, N+1 entries per buffer; 20_memory.md R60 to
R63) under every operation that writes it, and the reset state has it. -/

namespace Sys2Proof.Machine

theorem shape_resetWith (c : Config) (h : c.valid = true) : (State.resetWith c).Shape :=
  ⟨h, List.length_replicate, List.length_replicate, List.length_replicate⟩

theorem shape_reset : State.reset.Shape := shape_resetWith _ (by decide)

theorem shape_setChannel (s : State) (i : Nat) (c : Channel) (h : s.Shape) : (s.setChannel i c).Shape :=
  ⟨h.1, List.length_set.trans h.2.1, h.2.2⟩

theorem shape_reclamp (s : State) (h : s.Shape) : s.reclamp.Shape :=
  ⟨h.1, (List.length_map _).trans h.2.1, h.2.2⟩

theorem shape_emptyBuffers (s : State) (p : U16) (h : s.Shape) : (s.emptyBuffers p).Shape :=
  ⟨h.1, h.2.1, List.length_replicate, List.length_replicate⟩

theorem shape_setBuf (s : State) (b : Bool) (q : Buffer) (h : s.Shape) (hq : q.e.length = s.cfg.n + 1) :
    (s.setBuf b q).Shape := by
  cases b
  · exact ⟨h.1, h.2.1, hq, h.2.2.2⟩
  · exact ⟨h.1, h.2.1, h.2.2.1, hq⟩

theorem buf_length (s : State) (b : Bool) (h : s.Shape) : (s.buf b).e.length = s.cfg.n + 1 := by
  cases b
  · exact h.2.2.1
  · exact h.2.2.2

theorem shape_stop (s : State) (h : s.Shape) : s.stop.Shape :=
  ⟨h.1, h.2.1, List.length_replicate, List.length_replicate⟩

theorem shape_rebuild (s : State) (a b : Bool) (h : s.Shape) : (s.rebuild a b).Shape := by
  rw [rebuild_eq]
  exact shape_setBuf s _ _ h (rebuilt_length h _ (buf_length s _ h))

/-- An update writes as many entries as it read (R175). -/
theorem shape_incr (s t : State) (h : s.Shape) (ht : s.incr = .ok t) : t.Shape := by
  have hsrc : s.incrSource.e.length = s.cfg.n + 1 := by
    unfold State.incrSource
    split
    · exact buf_length s _ h
    · exact buf_length s _ h
  obtain ⟨-, -, ⟨-, rfl⟩ | ⟨es, hes, rfl⟩⟩ := incr_eq_ok s t ht
  · exact shape_rebuild _ _ _ (shape_setBuf s _ _ h hsrc)
  · obtain ⟨left, x, right, hl, -, -, rfl⟩ := updateWidth_eq_some _ _ _ _ hes
    refine shape_setBuf s _ _ h ?_
    have hlen := congrArg List.length (live_append_rest s.incrSource)
    have hp := (bubble_perm left right { x with pw := s.plan.pw }).length_eq
    simp only [List.length_append, hl, List.length_cons] at hlen hp
    simp only [State.annotate, List.length_append, annotate_length, hp]
    omega

/-- The sequencer writes no record and no entry (R66). -/
theorem shape_drain (s t : State) (h : s.Shape) (ht : s.drain = .ok t) : t.Shape := by
  obtain ⟨x, y, -, -, rfl⟩ := (drain_eq_ok_iff s t).1 ht
  rcases schedule_cases { s with gpioOut := s.gpioOut &&& ~~~ x.clear,
                                 cursor := BitVec.ofNat 8 (s.cursor.toNat + x.skip.toNat) } y x.pw with
    ⟨-, e⟩ | ⟨-, e⟩ <;> rw [e] <;> exact h

end Sys2Proof.Machine
end

