-- ==== Sys2Proof/Tests/Slice0.lean ====
section
/-! SUPPORT. The model's own tests: the smoke tests of WellFormed, one decoding per constructor from a word written out of
30_encoding.md R90 to R98, one or two single steps per instruction (the worked examples of the spec), and a witness for the
hypotheses of each statement of Certificates/Slice0/Obligations.lean. -/

namespace Sys2Proof.Tests

open Sys2Proof.Machine

/-! ### WellFormed refuses (R6 to R11, R93, R97, R98) -/

theorem test_legal_refuses_opcode_0 : (Code.cmd 0x00000000).legal = false := by decide
theorem test_legal_refuses_opcode_A : (Code.cmd 0xA0000000).legal = false := by decide
theorem test_legal_refuses_opcode_F : (Code.cmd 0xF0000000).legal = false := by decide
theorem test_legal_refuses_reserved_z : (Code.cmd 0x14020000).legal = false := by decide
theorem test_legal_refuses_reserved_z_of_set_pulse : (Code.cmd 0x410705DC).legal = false := by decide
theorem test_legal_refuses_b_outside_set_pulse : (Code.cmd 0x18020000).legal = false := by decide
theorem test_legal_refuses_attach_with_d : (Code.cmd 0x10020001).legal = false := by decide
theorem test_legal_refuses_set_freq_with_d_high : (Code.cmd 0x60070101).legal = false := by decide
theorem test_legal_refuses_set_period_with_a : (Code.cmd 0x800107D0).legal = false := by decide
theorem test_legal_refuses_force_resync_with_a : (Code.cmd 0x90010000).legal = false := by decide
theorem test_legal_refuses_plan_idle : (Code.plan 0).legal = false := by decide
theorem test_legal_refuses_plan_3 : (Code.plan 3).legal = false := by decide
theorem test_legal_refuses_phase_3 : (Code.phase 3).legal = false := by decide
theorem test_legal_accepts_buffered_set_pulse : (Code.cmd 0x480705DC).legal = true := by decide

theorem test_config_reference_valid : Config.reference.valid = true := by decide
theorem test_config_refuses_no_channel : { Config.reference with n := 0 }.valid = false := by decide
theorem test_config_refuses_33_channels : { Config.reference with n := 33 }.valid = false := by decide
theorem test_config_refuses_no_pin : { Config.reference with npins := 0 }.valid = false := by decide
theorem test_config_refuses_256_pins : { Config.reference with npins := 256 }.valid = false := by decide
theorem test_config_refuses_min_pulse_0 : { Config.reference with minPulse := 0 }.valid = false := by decide
theorem test_config_refuses_min_pulse_32768 :
    { Config.reference with minPulse := 32768, defaultPeriod := 65535 }.valid = false := by decide
theorem test_config_refuses_join_0 : { Config.reference with join := 0 }.valid = false := by decide
theorem test_config_refuses_join_256 : { Config.reference with join := 256 }.valid = false := by decide
theorem test_config_refuses_default_pulse_65536 :
    { Config.reference with defaultPulse := 65536 }.valid = false := by decide
theorem test_config_refuses_short_period : { Config.reference with defaultPeriod := 999 }.valid = false := by decide
theorem test_config_refuses_period_65536 : { Config.reference with defaultPeriod := 65536 }.valid = false := by decide

/-! ### The decoder, on words written from R90 to R92, R97, R98 -/

theorem test_decode_attach : decode (.cmd 0x10020000) = .ok (.attach 2) := by decide
theorem test_decode_attachf : decode (.cmd 0x20030055) = .ok (.attachf 3 0x55) := by decide
theorem test_decode_detach : decode (.cmd 0x30060000) = .ok (.detach 6) := by decide
theorem test_decode_set_pulse : decode (.cmd 0x400705DC) = .ok (.setPulse false 7 1500) := by decide
theorem test_decode_set_pulse_buffered : decode (.cmd 0x480705DC) = .ok (.setPulse true 7 1500) := by decide
theorem test_decode_get_pulse : decode (.cmd 0x50070000) = .ok (.getPulse 7) := by decide
theorem test_decode_set_freq : decode (.cmd 0x60070001) = .ok (.setFreq 7 1) := by decide
theorem test_decode_set_base_freq : decode (.cmd 0x70000032) = .ok (.setBaseFreq 50) := by decide
theorem test_decode_set_period : decode (.cmd 0x800007D0) = .ok (.setPeriod 2000) := by decide
theorem test_decode_force_resync : decode (.cmd 0x90000000) = .ok .forceResync := by decide
theorem test_decode_prep_rebuild : decode (.plan 1) = .ok .prepRebuild := by decide
theorem test_decode_prep_incr : decode (.plan 2) = .ok .prepIncr := by decide
theorem test_decode_all_high : decode (.phase 0) = .ok .expireAllHigh := by decide
theorem test_decode_await_commit : decode (.phase 1) = .ok .expireAwaitCommit := by decide
theorem test_decode_draining : decode (.phase 2) = .ok .expireDraining := by decide
theorem test_decode_rejects_reserved_bits : decode (.cmd 0x14020000) = .error .reservedBitsSet := by decide
theorem test_decode_rejects_b : decode (.cmd 0x18020000) = .error .bufferedFlagSet := by decide
theorem test_decode_rejects_unused_field : decode (.cmd 0x10020001) = .error .unusedFieldSet := by decide
theorem test_decode_rejects_opcode : decode (.cmd 0xA0000000) = .error .unassignedOpcode := by decide
theorem test_decode_rejects_plan_3 : decode (.plan 3) = .error .reservedPlanKind := by decide
theorem test_decode_rejects_phase_3 : decode (.phase 3) = .error .reservedPhase := by decide
theorem test_decodeTableWord_cmd : decodeTableWord 32 0x60070001 = some (.setFreq 7 1) := by decide
theorem test_decodeTableWord_phase : decodeTableWord 8 2 = some .expireDraining := by decide

/-! ### Single steps: the worked examples of the spec, in the reference configuration (R13) -/

/-- A part of the next state, if there is one. -/
def part {α : Type} (o : Host.Outcome State Fault Refusal) (f : State → α) : Option α :=
  match o with
  | .next t => some (f t)
  | _ => none

/-- A Channel Table of eight slots with the given records in slots 5, 6, 7. -/
def table (c5 c6 c7 : Channel) : List Channel := List.replicate 5 freeChannel ++ [c5, c6, c7]

/-- The reference machine, running, with these records in slots 5, 6, 7. -/
def running (c5 c6 c7 : Channel) : State := { State.reset with ch := table c5 c6 c7, timerRun := true }

/-- A buffer of the reference machine with these entries before the sentinel of period 2500. -/
def queue (es : List Entry) (m : Pins) : Buffer :=
  ⟨es ++ List.replicate (9 - es.length) (sentinel 2500), Vector.replicate 8 m⟩

/-- R123's example: after reset, ATTACH 2 answers channel 7. -/
theorem test_attach_example :
    part (exec (.attach 2) State.reset) (fun t => (t.rsp, t.ch[7]?, t.plan)) =
      some (0x80000007, some ⟨2, 1000, 0xFF⟩, ⟨1, true, false, false, 0, 0⟩) := by decide

/-- R251 cause 5: pin 32 does not exist when NPINS = 32. -/
theorem test_attach_missing_pin : part (exec (.attach 32) State.reset) (·.rsp) = some 0x0000FFFF := by decide

/-- R124's example: with pin 2 on channel 7, ATTACHF 3, 0x55 answers channel 6. -/
theorem test_attachf_example :
    part (exec (.attachf 3 0x55) (running freeChannel freeChannel ⟨2, 1000, 0xFF⟩))
      (fun t => (t.rsp, t.ch[6]?, t.plan.start)) = some (0x80000006, some ⟨3, 1000, 0x55⟩, false) := by decide

/-- R125's example: with channels 7 and 6 assigned, DETACH 6 plans a rebuild. -/
theorem test_detach_example :
    part (exec (.detach 6) (running freeChannel ⟨3, 1000, 0x55⟩ ⟨2, 1000, 0xFF⟩))
      (fun t => (t.rsp, t.ch[6]?, t.plan.kind, t.timerRun)) =
      some (0x80000000, some ⟨0xFF, 1000, 0x55⟩, 1, true) := by decide

/-- R214: DETACH of the last channel stops the timer and drives the asserted pins low. -/
theorem test_detach_last :
    part (exec (.detach 7) { running freeChannel freeChannel ⟨2, 1000, 0xFF⟩ with
      gpioOut := 4, asserted := 4, slot := 5, active := true, timerCnt := 77 })
      (fun t => (t.rsp, t.timerRun, t.gpioOut, t.slot, t.plan.kind)) = some (0x80000000, false, 0, 0, 0) := by decide

/-- R126's example: SET_PULSE 7, 1500 with nothing buffered plans an incremental update. -/
theorem test_set_pulse_example :
    part (exec (.setPulse false 7 1500) (running freeChannel freeChannel ⟨2, 1000, 0xFF⟩))
      (fun t => (t.rsp, t.ch[7]?, t.plan)) =
      some (0x80000000, some ⟨2, 1500, 0xFF⟩, ⟨2, false, false, false, 7, 1500⟩) := by decide

/-- R126: above the band the width is clamped to period − MIN_PULSE; buffered, only the count grows. -/
theorem test_set_pulse_buffered_clamped :
    part (exec (.setPulse true 7 60000) { running freeChannel freeChannel ⟨2, 1000, 0xFF⟩ with pendingUpdates := 255 })
      (fun t => (t.ch[7]?, t.pendingUpdates, t.plan.kind)) = some (some ⟨2, 2000, 0xFF⟩, 255, 0) := by decide

/-- R127's example: the response is 0x800005DC. -/
theorem test_get_pulse_example :
    part (exec (.getPulse 7) (running freeChannel freeChannel ⟨2, 1500, 0xFF⟩)) (·.rsp) = some 0x800005DC := by decide

/-- R120: channel ids from N on fail. -/
theorem test_get_pulse_invalid : part (exec (.getPulse 8) State.reset) (·.rsp) = some 0x0000FFFF := by decide

/-- R128's example: channel 7 then fires in slot 0 only. -/
theorem test_set_freq_example :
    part (exec (.setFreq 7 1) (running freeChannel freeChannel ⟨2, 1000, 0xFF⟩))
      (fun t => (t.rsp, t.ch[7]?, t.plan.kind)) = some (0x80000000, some ⟨2, 1000, 1⟩, 1) := by decide

/-- R129's examples: 50 Hz is the period 20000; 60 Hz fails. -/
theorem test_set_base_freq_example : part (exec (.setBaseFreq 50) State.reset) (·.periodWidth) = some 20000 := by decide
theorem test_set_base_freq_unsupported : part (exec (.setBaseFreq 60) State.reset) (·.rsp) = some 0x0000FFFF := by decide

/-- R130's examples: widths 1000 and 1800 become 1000 and 1500; 999 is too short. -/
theorem test_set_period_example :
    part (exec (.setPeriod 2000) (running freeChannel ⟨3, 1000, 0xFF⟩ ⟨2, 1800, 0xFF⟩))
      (fun t => (t.periodWidth, t.ch[6]?, t.ch[7]?, t.plan.kind)) =
      some (2000, some ⟨3, 1000, 0xFF⟩, some ⟨2, 1500, 0xFF⟩, 1) := by decide
theorem test_set_period_too_short : part (exec (.setPeriod 999) State.reset) (·.rsp) = some 0x0000FFFF := by decide

/-- R131's example: two buffered changes waiting. -/
theorem test_force_resync_example :
    part (exec .forceResync { running freeChannel freeChannel ⟨2, 1000, 0xFF⟩ with pendingUpdates := 2 })
      (fun t => (t.plan, t.pendingUpdates)) = some (⟨1, false, true, false, 0, 0⟩, 0) := by decide

/-- R167's example: the sorted, annotated queue of three channels. -/
theorem test_prep_rebuild_example :
    part (exec .prepRebuild (running ⟨6, 2000, 0xFF⟩ ⟨4, 1000, 0xFF⟩ ⟨2, 1500, 0xFF⟩))
      (fun t => (t.q1.e.take 4, t.q1.set[3], t.switchPending)) =
      some ([⟨6, 1000, 0x10, 1⟩, ⟨7, 1500, 0x04, 1⟩, ⟨5, 2000, 0x40, 1⟩, ⟨0xFF, 2500, 0, 1⟩], 0x54, true) := by decide

/-- R243 (e): three equal widths, in the order of their ids, are one group. -/
theorem test_prep_rebuild_merges :
    part (exec .prepRebuild (running ⟨6, 1000, 0xFF⟩ ⟨4, 1000, 0xFF⟩ ⟨2, 1000, 0xFF⟩)) (fun t => t.q1.e.take 3) =
      some [⟨5, 1000, 0x54, 3⟩, ⟨6, 1000, 0x14, 2⟩, ⟨7, 1000, 0x04, 1⟩] := by decide

/-- R184 (b): from [ch6(1000), ch7(1200)], the width 1300 moves channel 6 one place to the right. -/
theorem test_prep_incr_example :
    part (exec .prepIncr { running freeChannel ⟨4, 1300, 0xFF⟩ ⟨2, 1200, 0xFF⟩ with
      q0 := queue [⟨6, 1000, 0x10, 1⟩, ⟨7, 1200, 0x04, 1⟩] 0x14, plan := ⟨2, false, false, false, 6, 1300⟩ })
      (fun t => (t.q1.e.take 3, t.q1.set[0], t.switchPending, t.plan.kind)) =
      some ([⟨7, 1200, 0x04, 1⟩, ⟨6, 1300, 0x10, 1⟩, ⟨0xFF, 2500, 0, 1⟩], 0x14, true, 0) := by decide

/-- R243 (a): 1499 and 1500 are one group with the clear bitmap of both pins. -/
theorem test_prep_incr_merges :
    part (exec .prepIncr { running freeChannel ⟨3, 1500, 0xFF⟩ ⟨1, 1499, 0xFF⟩ with
      q0 := queue [⟨7, 1000, 0x02, 1⟩, ⟨6, 1500, 0x08, 1⟩] 0x0A, plan := ⟨2, false, false, false, 7, 1499⟩ })
      (fun t => t.q1.e.take 2) = some [⟨7, 1499, 0x0A, 2⟩, ⟨6, 1500, 0x08, 1⟩] := by decide

/-- R208's example. -/
theorem test_all_high_example :
    part (exec .expireAllHigh { running freeChannel freeChannel freeChannel with q0 := queue [] 0x54, slot := 3 })
      (fun t => (t.gpioOut, t.asserted, t.slot, t.timerCnt, t.phase)) = some (0x54, 0x54, 4, 500, 1) := by decide

/-- R209's example: the pending buffer becomes active and its first width is scheduled. -/
theorem test_await_commit_example :
    part (exec .expireAwaitCommit { running freeChannel freeChannel freeChannel with
      q1 := queue [⟨6, 1000, 0x10, 1⟩, ⟨7, 1500, 0x04, 1⟩] 0x14, switchPending := true, phase := 1 })
      (fun t => (t.active, t.switchPending, t.cursor, t.timerCnt, t.phase)) = some (true, false, 0, 500, 2) := by decide

/-- R209: a first width of MIN_PULSE is cleared in the same step. -/
theorem test_await_commit_falls_through :
    part (exec .expireAwaitCommit { running freeChannel freeChannel freeChannel with
      q0 := queue [⟨6, 500, 0x10, 1⟩, ⟨7, 1500, 0x04, 1⟩] 0x14, gpioOut := 0x14, asserted := 0x14, phase := 1 })
      (fun t => (t.gpioOut, t.cursor, t.timerCnt, t.phase)) = some (0x04, 1, 1000, 2) := by decide

/-- R210's example, and its next expiry. -/
theorem test_draining_example :
    part (exec .expireDraining { running freeChannel freeChannel freeChannel with
      q0 := queue [⟨6, 1000, 0x10, 1⟩, ⟨7, 1500, 0x04, 1⟩] 0x14, gpioOut := 0x14, asserted := 0x14, phase := 2 })
      (fun t => (t.gpioOut, t.cursor, t.timerCnt, t.phase)) = some (0x04, 1, 500, 2) := by decide
theorem test_draining_ends_period :
    part (exec .expireDraining { running freeChannel freeChannel freeChannel with
      q0 := queue [⟨6, 1000, 0x10, 1⟩, ⟨7, 1500, 0x04, 1⟩] 0x14, gpioOut := 0x04, asserted := 0x14, phase := 2,
      cursor := 1 })
      (fun t => (t.gpioOut, t.asserted, t.cursor, t.timerCnt, t.phase)) = some (0, 0, 2, 1000, 0) := by decide

/-- R106: the very next step runs the presented word; R133: an illegal word only answers. -/
theorem test_step_runs_word :
    part (step (State.reset.withFetchWord 32 0x10020000)) (fun t => (t.rsp, t.script)) = some (0x80000007, []) := by decide
theorem test_step_illegal_word :
    part (step { State.reset with script := [.command 0x14020000] }) (fun t => (t.rsp, t.plan.kind)) =
      some (0x4000FFFF, 0) := by decide

/-! ### Witnesses: states and operands that meet the hypotheses of the statements

One theorem per statement that has hypotheses, with a conjunct for each of its clauses, at boundary values. -/

/-- A small configuration: two channels, four pins, MIN_PULSE 2, JOIN 1, default period 10. -/
def tiny : Config := ⟨2, 4, 2, 1, 3, 10, 0⟩

def tinyQueue (es : List Entry) (m : Pins) : Buffer :=
  ⟨es ++ List.replicate (3 - es.length) (sentinel 10), Vector.replicate 8 m⟩

/-- Both channels assigned, the timer running, a period about to start. -/
def tinyRun : State := { State.resetWith tiny with
  ch := [⟨3, 5, 0xFF⟩, ⟨0, 3, 0xFF⟩]
  q0 := tinyQueue [⟨1, 3, 0x1, 1⟩, ⟨0, 5, 0x8, 1⟩] 0x9
  timerRun := true }

/-- The same, with an incremental update of channel 1 to the width 6 owed. -/
def tinyIncr : State := { tinyRun with
  ch := [⟨3, 5, 0xFF⟩, ⟨0, 6, 0xFF⟩]
  plan := ⟨2, false, false, false, 1, 6⟩ }

/-- The same, at a commit point with a prepared buffer pending. -/
def tinyPending : State := { tinyRun with
  q0 := tinyQueue [] 0
  q1 := tinyQueue [⟨1, 3, 0x1, 1⟩, ⟨0, 5, 0x8, 1⟩] 0x9
  switchPending := true
  phase := 1 }

/-- The same, walking the queue: the cursor on the last entry, its pin still high. -/
def tinyDrain : State := { tinyRun with phase := 2, cursor := 1, gpioOut := 0x8, asserted := 0x9 }

theorem tinyRun_inv : tinyRun.Inv :=
  ⟨by decide, by decide, by decide, by decide, by decide, by decide, by decide, by decide, by decide, by decide⟩

theorem tinyIncr_inv : tinyIncr.Inv :=
  ⟨by decide, by decide, by decide, by decide, by decide, by decide, by decide, by decide, by decide, by decide⟩

theorem tinyPending_inv : tinyPending.Inv :=
  ⟨by decide, by decide, by decide, by decide, by decide, by decide, by decide, by decide, by decide, by decide⟩

theorem tinyDrain_inv : tinyDrain.Inv :=
  ⟨by decide, by decide, by decide, by decide, by decide, by decide, by decide, by decide, by decide, by decide⟩

theorem witness_IllegalWordChangesNothing :
    let s := { State.reset with script := [.command 0] }
    s.cfg.valid = true ∧ s.script = [.command 0] ∧ s.plan.kind = 0 ∧ ∀ r ∈ cmdRows, (0 : U32) &&& r.mask ≠ r.pattern := by
  decide

theorem witness_AcceptedWordIsAnswered :
    let s := { State.reset with script := [.command 0x10020000] }
    s.cfg.valid = true ∧ s.script = [.command 0x10020000] ∧ s.plan.kind = 0 := by decide

/-- A search bounded to the table: what holds of every record at its index holds of what a lookup finds. -/
theorem lookup_of_all (l : List Channel) (P : Nat → Channel → Prop)
    (h : ∀ j : Fin l.length, P j l[j]) : ∀ j d, l[j]? = some d → P j d := by
  intro j d hd
  obtain ⟨hj, rfl⟩ := List.getElem?_eq_some_iff.1 hd
  exact h ⟨j, hj⟩

theorem witness_AttachResult_refused : ¬ State.reset.PinExists 32 ∧ ¬ State.reset.PinExists 0xFF := by decide

theorem witness_AttachResult_bound :
    tinyRun.PinExists 3 ∧ tinyRun.ch[0]? = some ⟨3, 5, 0xFF⟩ ∧ (∀ j < 0, ∀ d, tinyRun.ch[j]? = some d → d.pin ≠ 3) ∧
    tinyRun.PinExists 0 ∧ tinyRun.ch[1]? = some ⟨0, 3, 0xFF⟩ ∧ (∀ j < 1, ∀ d, tinyRun.ch[j]? = some d → d.pin ≠ 0) := by
  refine ⟨by decide, by decide, by omega, by decide, by decide, fun j hj d hd => ?_⟩
  exact lookup_of_all tinyRun.ch (fun j d => j < 1 → d.pin ≠ 0) (by decide) j d hd hj

theorem witness_AttachResult_full :
    tinyRun.PinExists 1 ∧ (∀ d ∈ tinyRun.ch, d.pin ≠ 1) ∧ ∀ d ∈ tinyRun.ch, d.pin ≠ unassigned := by decide

theorem witness_AttachResult_new :
    State.reset.PinExists 31 ∧ (∀ d ∈ State.reset.ch, d.pin ≠ 31) ∧ State.reset.ch[7]? = some freeChannel ∧
    freeChannel.pin = unassigned ∧ (∀ j, 7 < j → ∀ d, State.reset.ch[j]? = some d → d.pin ≠ unassigned) := by
  refine ⟨by decide, by decide, by decide, by decide, fun j hj d hd => ?_⟩
  exact lookup_of_all State.reset.ch (fun j d => 7 < j → d.pin ≠ unassigned) (by decide) j d hd hj

/-- The hypotheses of ATTACHF are those of ATTACH; both branches on the mask occur. -/
theorem witness_AttachfResult :
    ¬ tinyRun.PinExists 4 ∧ tinyRun.PinExists 3 ∧ tinyRun.ch[0]? = some ⟨3, 5, 0xFF⟩ ∧
    (∀ j < 0, ∀ d, tinyRun.ch[j]? = some d → d.pin ≠ 3) ∧
    (∀ d ∈ tinyRun.ch, d.pin ≠ 1) ∧ (∀ d ∈ tinyRun.ch, d.pin ≠ unassigned) ∧
    State.reset.PinExists 0 ∧ (∀ d ∈ State.reset.ch, d.pin ≠ 0) ∧ State.reset.ch[7]? = some freeChannel ∧
    (∀ j, 7 < j → ∀ d, State.reset.ch[j]? = some d → d.pin ≠ unassigned) := by
  refine ⟨by decide, by decide, by decide, by omega, by decide, by decide, by decide, by decide, by decide,
    fun j hj d hd => ?_⟩
  exact lookup_of_all State.reset.ch (fun j d => 7 < j → d.pin ≠ unassigned) (by decide) j d hd hj

theorem invalid_of_validCh (s : State) (c : U8) (h : s.validCh c = false) : ∀ r, ¬ s.ValidChannel c r := by
  rintro r ⟨h1, h2, h3⟩
  simp [State.validCh, State.channel, List.getD_eq_getElem?_getD, h1, h2, Channel.assigned] at h
  exact h3 h

theorem witness_DetachResult :
    (∀ r, ¬ tinyRun.ValidChannel 2 r) ∧ (∀ r, ¬ tinyRun.ValidChannel 255 r) ∧
    (tinyRun.ValidChannel 1 ⟨0, 3, 0xFF⟩ ∧ (0 : Nat) ≠ (1 : U8).toNat ∧ tinyRun.ch[0]? = some ⟨3, 5, 0xFF⟩ ∧
      (3 : U8) ≠ unassigned) ∧
    let s := running freeChannel freeChannel ⟨2, 1000, 0xFF⟩
    s.ValidChannel 7 ⟨2, 1000, 0xFF⟩ ∧
      ∀ j d, j ≠ (7 : U8).toNat → s.ch[j]? = some d → d.pin = unassigned := by
  refine ⟨invalid_of_validCh _ _ (by decide), invalid_of_validCh _ _ (by decide), by decide, by decide,
    fun j d hj hd => ?_⟩
  exact lookup_of_all (running freeChannel freeChannel ⟨2, 1000, 0xFF⟩).ch
    (fun j d => j ≠ (7 : U8).toNat → d.pin = unassigned) (by decide) j d hd hj

theorem witness_SetPulseResult :
    (∀ r, ¬ tinyRun.ValidChannel 2 r) ∧ tinyRun.ValidChannel 0 ⟨3, 5, 0xFF⟩ ∧ tinyRun.ValidChannel 1 ⟨0, 3, 0xFF⟩ ∧
    tinyRun.clampw 5 = 5 ∧ tinyRun.clampw 65535 = 8 :=
  ⟨invalid_of_validCh _ _ (by decide), by decide, by decide, by decide, by decide⟩

theorem witness_GetPulseResult :
    (∀ r, ¬ tinyRun.ValidChannel 2 r) ∧ tinyRun.ValidChannel 0 ⟨3, 5, 0xFF⟩ :=
  ⟨invalid_of_validCh _ _ (by decide), by decide⟩

theorem witness_SetFreqResult :
    (∀ r, ¬ tinyRun.ValidChannel 2 r) ∧ tinyRun.ValidChannel 1 ⟨0, 3, 0xFF⟩ :=
  ⟨invalid_of_validCh _ _ (by decide), by decide⟩

theorem witness_SetBaseFreqResult :
    (((50 : U16) = 50 ∧ (20000 : U16) = 20000) ∨ ((50 : U16) = 100 ∧ (20000 : U16) = 10000)) ∧
    ((400 : U16) = 400 ∧ (2500 : U16) = 2500) ∧
    (51 : U16) ≠ 50 ∧ (51 : U16) ≠ 100 ∧ (51 : U16) ≠ 200 ∧ (51 : U16) ≠ 400 := by decide

theorem witness_ClampedWidth :
    let s := { State.reset with periodWidth := 1000 }
    s.cfg.valid = true ∧ 2 * s.cfg.minPulse = s.periodWidth.toNat := by decide

theorem witness_GetPulseAfterSetPulse : tinyRun.ValidChannel 1 ⟨0, 3, 0xFF⟩ := by decide

theorem witness_AssignedCount :
    (∃ t, exec (.attach 2) State.reset = .next t) ∧ (∃ t, exec (.attachf 3 1) tinyRun = .next t) ∧
    (∃ t, exec (.detach 1) tinyRun = .next t) ∧ (∃ t, exec (.getPulse 1) tinyRun = .next t) :=
  ⟨⟨_, rfl⟩, ⟨_, rfl⟩, ⟨_, rfl⟩, ⟨_, rfl⟩⟩

theorem witness_RebuildResult : State.reset.Shape ∧ tinyRun.Shape := by decide

/-- A group of two, its widths JOIN - 1 apart, and JOIN after it the next group. -/
theorem witness_AnnotateGroups :
    let es : List Entry := [⟨1, 10, 0, 1⟩, ⟨2, 13, 0, 1⟩, ⟨3, 17, 0, 1⟩]
    es.length ≤ 255 ∧ es.Pairwise (fun a b => a.pw ≤ b.pw) ∧
    (annotate 4 pinbit es)[0]? = some ⟨1, 10, 0x6, 2⟩ ∧ 0 + 1 < 0 + (2 : U8).toNat ∧
    (annotate 4 pinbit es)[0 + 1]? = some ⟨2, 13, 0x4, 1⟩ ∧ 1 + 1 = 0 + (2 : U8).toNat ∧
    (annotate 4 pinbit es)[1 + 1]? = some ⟨3, 17, 0x8, 1⟩ := by decide

theorem witness_GroupSpacing :
    let es : List Entry := [⟨1, 10, 0, 1⟩, ⟨2, 13, 0, 1⟩, ⟨3, 17, 0, 1⟩]
    es.length ≤ 255 ∧ es.Pairwise (fun x y => x.pw ≤ y.pw) ∧ (annotate 4 pinbit es)[0]? = some ⟨1, 10, 0x6, 2⟩ ∧
    (annotate 4 pinbit es)[0 + (2 : U8).toNat]? = some ⟨3, 17, 0x8, 1⟩ := by decide

/-- Channel 1 stands first: nothing on its left, one entry on its right. -/
theorem witness_IncrResult :
    let x : Entry := ⟨1, 3, 0x1, 1⟩
    let right : List Entry := [⟨0, 5, 0x8, 1⟩]
    tinyIncr.incrSource.e = [] ++ x :: right ++ sentinel 10 :: [] ∧ (sentinel 10).id = endId ∧
    (∀ y ∈ [] ++ x :: right, y.id ≠ endId ∧ y.id.toNat < tinyIncr.cfg.n) ∧ x.id = tinyIncr.plan.ch ∧
    (∀ y ∈ ([] : List Entry), y.id ≠ tinyIncr.plan.ch) ∧ ([] ++ right).Pairwise (fun a b : Entry => a.pw ≤ b.pw) := by decide

theorem witness_IncrFallsBackToRebuild :
    let s := { tinyIncr with q0 := tinyQueue [⟨0, 5, 0x8, 1⟩] 0x8 }
    s.incrSource.rest ≠ [] ∧ ∀ y ∈ s.incrSource.live, y.id ≠ s.plan.ch ∧ y.id.toNat < s.cfg.n := by decide

theorem witness_IncrEqualsRebuild : tinyIncr.Inv ∧ tinyIncr.plan.kind = 2 := ⟨tinyIncr_inv, by decide⟩

theorem witness_PreparationCommutes :
    tinyIncr.phase ≠ 1 ∧ tinyIncr.plan.start = false ∧ tinyIncr.plan.resync = false ∧
    (∃ a, tinyIncr.perform .expire = .next a) ∧ (∃ a, tinyIncr.perform .tick = .next a) ∧
    ∃ b, tinyIncr.perform .prepare = .next b :=
  ⟨by decide, by decide, by decide, ⟨_, rfl⟩, ⟨_, rfl⟩, ⟨_, rfl⟩⟩

theorem witness_AllHighResult :
    (if tinyRun.active then tinyRun.q1 else tinyRun.q0).set[tinyRun.slot.toNat]? = some 0x9 ∧
    let s := { tinyPending with slot := 7, active := true }
    (if s.active then s.q1 else s.q0).set[s.slot.toNat]? = some 0x9 := by decide

/-- An empty queue; a first width of MIN_PULSE + 1 in a pending buffer; a first width of MIN_PULSE, before another entry and
before the sentinel. -/
theorem witness_AwaitCommitResult :
    (let s := { tinyPending with switchPending := false }
     (s.active != s.switchPending) = false ∧ s.q0.e[0]? = some (sentinel 10) ∧ (sentinel 10).id = endId) ∧
    (let x : Entry := ⟨1, 3, 0x1, 1⟩
     (tinyPending.active != tinyPending.switchPending) = true ∧ tinyPending.q1.e[0]? = some x ∧ x.id ≠ endId ∧
       tinyPending.minPulse < x.pw ∧ x.pw = tinyPending.minPulse + 1) ∧
    (let x : Entry := ⟨1, 2, 0x1, 1⟩
     let s := { tinyPending with q1 := tinyQueue [x, ⟨0, 5, 0x8, 1⟩] 0x9 }
     (s.active != s.switchPending) = true ∧ s.q1.e[0]? = some x ∧ x.id ≠ endId ∧ x.pw = s.minPulse ∧
       s.q1.e[x.skip.toNat]? = some ⟨0, 5, 0x8, 1⟩) ∧
    (let x : Entry := ⟨1, 2, 0x1, 1⟩
     let s := { tinyPending with q1 := tinyQueue [x] 0x1 }
     (s.active != s.switchPending) = true ∧ s.q1.e[0]? = some x ∧ x.id ≠ endId ∧ x.pw = s.minPulse ∧
       s.q1.e[x.skip.toNat]? = some (sentinel 10)) := by decide

theorem witness_DrainingResult :
    tinyDrain.activeBuf.e[tinyDrain.cursor.toNat]? = some ⟨0, 5, 0x8, 1⟩ ∧
    tinyDrain.activeBuf.e[tinyDrain.cursor.toNat + (1 : U8).toNat]? = some (sentinel 10) ∧
    let s := { tinyDrain with cursor := 0 }
    s.activeBuf.e[s.cursor.toNat]? = some ⟨1, 3, 0x1, 1⟩ ∧
    s.activeBuf.e[s.cursor.toNat + (1 : U8).toNat]? = some ⟨0, 5, 0x8, 1⟩ := by decide

theorem witness_CommitPoint : ∃ t, exec .expireAwaitCommit tinyPending = .next t := ⟨_, rfl⟩

theorem witness_CommitAdoptsLatest :
    tinyPending.Inv ∧ tinyPending.switchPending = true ∧ ∃ t, exec .expireAwaitCommit tinyPending = .next t :=
  ⟨tinyPending_inv, by decide, ⟨_, rfl⟩⟩

theorem witness_PeriodEndsLow :
    tinyDrain.gpioOut &&& ~~~ tinyDrain.asserted = 0 ∧ part tinyDrain.expiry (·.phase) = some 0 := by decide

theorem witness_UnreachableStatesStop :
    Config.valid { tiny with n := 0 } = false ∧
    (let s := { tinyRun with phase := 3, script := [.expire] }
     s.cfg.valid = true ∧ s.timerRun = true ∧ s.timerCnt = 0 ∧ s.phase = 3) ∧
    (let s := { tinyRun with plan := { Plan.idle with kind := 3 }, script := [.prepare] }
     s.cfg.valid = true ∧ s.plan.kind = 3) ∧
    (let s := { tinyDrain with cursor := 3 }
     s.activeBuf.e[s.cursor.toNat]? = none) ∧
    (let s := { tinyDrain with q0 := ⟨[⟨1, 3, 0x1, 1⟩], Vector.replicate 8 0⟩, cursor := 0 }
     s.activeBuf.e[s.cursor.toNat]? = some ⟨1, 3, 0x1, 1⟩ ∧ s.activeBuf.e[s.cursor.toNat + (1 : U8).toNat]? = none) ∧
    (let s := { tinyRun with q0 := ⟨[], Vector.replicate 8 0⟩ }
     (s.buf (s.active != s.switchPending)).e = []) ∧
    (let s := { tinyIncr with q0 := ⟨[], Vector.replicate 8 0⟩ }
     s.incrSource.rest = []) ∧
    (let s := { tinyIncr with q0 := tinyQueue [⟨2, 5, 0, 1⟩] 0 }
     s.incrSource.rest ≠ [] ∧ ⟨2, 5, 0, 1⟩ ∈ s.incrSource.live ∧ s.cfg.n ≤ (2 : U8).toNat) := by decide

theorem witness_TickResult :
    (let s := { tinyRun with timerCnt := 1, script := [.tick] }
     s.cfg.valid = true ∧ ¬ (s.timerRun = true ∧ s.timerCnt = 0)) ∧
    (let s := { State.reset with script := [.tick] }
     s.cfg.valid = true ∧ ¬ (s.timerRun = true ∧ s.timerCnt = 0)) := by decide

theorem witness_LateTickResult :
    (let s := { tinyRun with script := [.tick] }
     s.cfg.valid = true ∧ s.timerRun = true ∧ s.timerCnt = 0 ∧ ¬ s.late < s.cfg.latMax) ∧
    (let s := { tinyRun with cfg := { tiny with latMax := 1 }, script := [.tick] }
     s.cfg.valid = true ∧ s.timerRun = true ∧ s.timerCnt = 0 ∧ s.late < s.cfg.latMax) := by decide

theorem witness_ResetResult :
    let s := { tinyDrain with script := [.reset] }
    s.cfg.valid = true ∧ s.script = [.reset] := by decide

theorem witness_StepRunsDecoded :
    tinyRun.cfg.valid = true ∧ (tinyRun.plan.kind = 0 ∧ decode (.cmd 0x50010000) = .ok (.getPulse 1)) ∧
    decode (.plan tinyIncr.plan.kind) = .ok .prepIncr ∧
    (tinyRun.timerRun = true ∧ tinyRun.timerCnt = 0 ∧ decode (.phase tinyRun.phase) = .ok .expireAllHigh) := by decide

theorem witness_FetchWordRuns :
    tinyRun.cfg.valid = true ∧ decodeTableWord 32 0x50010000 = some (.getPulse 1) ∧
    decodeTableWord 8 0 = some .expireAllHigh := by decide

theorem witness_DisabledMoveHasNoEffect :
    tinyIncr.cfg.valid = true ∧ tinyIncr.plan.kind ≠ 0 ∧ tinyRun.plan.kind = 0 ∧
    ¬ (State.reset.timerRun = true ∧ State.reset.timerCnt = 0) ∧
    let s := { tinyRun with timerCnt := 1 }
    ¬ (s.timerRun = true ∧ s.timerCnt = 0) := by decide

theorem witness_UnscriptedStepIsEnabled : tinyRun.cfg.valid = true ∧ tinyRun.script = [] := by decide

theorem witness_PreparationIsTaken : tinyIncr.Inv ∧ tinyIncr.plan.kind ≠ 0 := ⟨tinyIncr_inv, by decide⟩

theorem witness_InstructionsTakeNoTime :
    (∃ t, exec .expireDraining tinyDrain = .next t) ∧ (∃ t, exec .prepRebuild tinyRun = .next t) ∧
    ∃ t, exec (.detach 1) tinyRun = .next t := ⟨⟨_, rfl⟩, ⟨_, rfl⟩, ⟨_, rfl⟩⟩

/-- The least and the greatest configuration. -/
theorem witness_ResetSatisfiesInv :
    Config.valid ⟨1, 1, 1, 1, 0, 2, 0⟩ = true ∧ Config.valid ⟨32, 255, 32767, 255, 65535, 65535, 9⟩ = true := by decide

theorem witness_StepKeepsInv :
    tinyDrain.Inv ∧ ∃ t, step tinyDrain = .next t := ⟨tinyDrain_inv, ⟨_, rfl⟩⟩

theorem witness_InvStepGoes : tinyRun.Inv ∧ tinyPending.Inv ∧ tinyDrain.Inv ∧ tinyIncr.Inv :=
  ⟨tinyRun_inv, tinyPending_inv, tinyDrain_inv, tinyIncr_inv⟩

theorem witness_EveryRunIsSafe : tiny.valid = true := by decide

theorem witness_PinsStayDistinct :
    tinyRun.PinsOk ∧ ∃ t, step { tinyRun with script := [.command 0x30010000] } = .next t := ⟨by decide, ⟨_, rfl⟩⟩

theorem witness_WidthsStayInBand :
    tinyRun.BandOk ∧ ∃ t, step { tinyRun with script := [.command 0x80000004] } = .next t := ⟨by decide, ⟨_, rfl⟩⟩

theorem witness_ActiveChangesOnlyAtCommit :
    (tinyPending.active = false ∧ part (step { tinyPending with script := [.expire] }) (·.active) = some true) ∧
    part (step { tinyRun with active := true, script := [.reset] }) (·.active) = some false ∧
    part (step { tinyRun with
      ch := [freeChannel, ⟨0, 3, 0xFF⟩], active := true, script := [.command 0x30010000] }) (·.active) = some false := by
  decide

theorem witness_BufferOwnership :
    (part (tinyIncr.perform .prepare) (·.timerRun) = some true ∧ tinyIncr.timerRun = true) ∧
    part (tinyRun.perform (.command 0x40010006)) (·.timerRun) = some true ∧
    part (tinyDrain.perform .expire) (·.timerRun) = some true ∧ part (tinyRun.perform .tick) (·.now) = some 1 := by decide

theorem witness_SequencerIgnoresTable : ∃ t, tinyPending.expiry = .next t := ⟨_, rfl⟩

theorem witness_SequencerIgnoresIdleBuffer :
    ¬ (tinyDrain.phase = 1 ∧ tinyDrain.switchPending = true) ∧ ∃ t, tinyDrain.expiry = .next t := ⟨by decide, ⟨_, rfl⟩⟩

theorem witness_PinChanges :
    (part (step { tinyDrain with script := [.expire] }) (·.gpioOut) = some 0 ∧ tinyDrain.gpioOut ≠ 0) ∧
    part (step { tinyDrain with ch := [freeChannel, ⟨0, 3, 0xFF⟩], script := [.command 0x30010000] }) (·.gpioOut) =
      some 0 ∧
    part (step { tinyRun with script := [.expire] }) (fun t => t.gpioOut.getLsbD 3) = some true ∧
    tinyRun.gpioOut.getLsbD 3 = false := by decide

theorem witness_TimerStartsAndStops :
    (let s := { State.resetWith tiny with
       ch := [freeChannel, ⟨0, 3, 0xFF⟩], plan := ⟨1, true, false, false, 0, 0⟩, script := [.prepare] }
     s.timerRun = false ∧ part (step s) (·.timerRun) = some true) ∧
    part (step { tinyRun with script := [.reset] }) (·.timerRun) = some false ∧
    part (step { tinyRun with ch := [freeChannel, ⟨0, 3, 0xFF⟩], script := [.command 0x30010000] }) (·.timerRun) =
      some false := by decide

theorem witness_BufferedUpdatesBegin :
    tinyRun.pendingUpdates = 0 ∧
    part (step { tinyRun with script := [.command 0x48010006] }) (·.pendingUpdates) = some 1 := by decide

theorem witness_PeriodLength : tinyRun.QuietPeriodStart :=
  ⟨tinyRun_inv, by decide, by decide, by decide, by decide, by decide⟩

theorem witness_PinWaveform :
    tinyRun.QuietPeriodStart ∧ 0 < tinyRun.latest.period.toNat ∧ 9 < tinyRun.latest.period.toNat :=
  ⟨witness_PeriodLength, by decide, by decide⟩

end Sys2Proof.Tests
end

/-! ## The step, move by move (00_scope.md R17)

What each enabling condition says, and what a step does with a move that is enabled, with one that is not, and with the
first move of a script. -/

namespace Sys2Proof.Machine

theorem busy_eq_true_iff (s : State) : s.busy = true ↔ s.plan.kind ≠ 0 := by simp [State.busy]

theorem due_eq_true_iff (s : State) : s.due = true ↔ s.timerRun = true ∧ s.timerCnt = 0 := by simp [State.due]

theorem tickEnabled_eq_true_iff (s : State) :
    s.tickEnabled = true ↔ ¬ (s.timerRun = true ∧ s.timerCnt = 0) ∨ s.late < s.cfg.latMax := by
  rw [← due_eq_true_iff]
  simp [State.tickEnabled]

theorem offer_of_enabled {s : State} {m : Move} (h : s.enabled m = true) : s.offer m = s.perform m := if_pos h

theorem offer_of_not_enabled {s : State} {m : Move} (h : ¬ s.enabled m = true) : s.offer m = .next s := if_neg h

theorem nextMove_of_script {s : State} {m : Move} {ms : List Move} (h : s.script = m :: ms) :
    s.nextMove = (m, { s with script := ms }) := by
  simp [State.nextMove, h]

/-- A scripted step takes the first move of the script if that move is enabled (R17). -/
theorem step_of_script {s : State} {m : Move} {ms : List Move} (hv : s.cfg.valid = true) (h : s.script = m :: ms)
    (he : State.enabled { s with script := ms } m = true) : step s = State.perform { s with script := ms } m := by
  rw [step_eq s hv, nextMove_of_script h, offer_of_enabled he]

/-! ### What each agent runs (R92, R97, R98) -/

theorem phaseA_of_decode (s : State) {w : U32} {i : Instr} (h : decode (.cmd w) = .ok i) : s.phaseA w = exec i s := by
  simp only [State.phaseA, h]

theorem phaseB_of_decode {s : State} {i : Instr} (h : decode (.plan s.plan.kind) = .ok i) : s.phaseB = exec i s := by
  simp only [State.phaseB, h]

theorem expiry_of_decode {s : State} {i : Instr} (h : decode (.phase s.phase) = .ok i) : s.expiry = exec i s := by
  simp only [State.expiry, h]

/-- Settles O38: in each of the three cases the move is enabled, and the agent that takes it runs what its code decodes
to. -/
theorem stepRunsDecoded : Obligations.StepRunsDecoded := by
  intro s ms i hv
  refine ⟨fun w hs hidle hd => ?command, fun hs hd => ?prepare, fun hs hrun hcnt hd => ?expire⟩
  case command =>
    rw [step_of_script hv hs (by simp [State.enabled, State.busy, hidle])]
    exact phaseA_of_decode _ hd
  case prepare =>
    have howed : s.plan.kind ≠ 0 := fun h0 => by
      rw [h0] at hd
      cases hd
    rw [step_of_script hv hs ((busy_eq_true_iff _).2 howed)]
    exact phaseB_of_decode hd
  case expire =>
    rw [step_of_script hv hs ((due_eq_true_iff _).2 ⟨hrun, hcnt⟩)]
    exact expiry_of_decode hd

/-- Settles O41: the move that the block draws by itself is an owed preparation or an enabled clock move, and drawing it
writes only the fields of the free schedule. -/
theorem unscriptedStepIsEnabled : Obligations.UnscriptedStepIsEnabled := by
  intro s hv hs
  obtain ⟨he, d, w, hr⟩ := nextMove_enabled s hs
  refine ⟨s.nextMove.1, d, w, ?_, by rw [step_eq s hv, offer_of_enabled he, hr]⟩
  rcases nextMove_cases s with ⟨m, ms, hm, -⟩ | ⟨-, hb, -, e⟩ | ⟨-, w', e, -⟩
  · exact absurd (hs.symm.trans hm) (by simp)
  · exact .inl ⟨congrArg Prod.fst e, (busy_eq_true_iff s).1 hb⟩
  · rw [e]
    rcases clockMove_cases s with ⟨hc, hd⟩ | ⟨hc, ht⟩
    · exact .inr (.inl ⟨hc, (due_eq_true_iff s).1 hd⟩)
    · exact .inr (.inr ⟨hc, (tickEnabled_eq_true_iff s).1 ht⟩)

end Sys2Proof.Machine

/-! ## The expiry step on a complete buffer (44_sequencer.md R207 to R211)

From a complete active buffer (R32, R50) the expiry step answers a next state, in which the cursor is again where the
next expiry needs it, and it writes nothing that the command engine reads (R66). -/

namespace Sys2Proof.Machine

/-- A 2-bit code that is not the reserved one (R97, R98). -/
theorem code_cases (k : U2) (h : k ≠ 3) : k = 0 ∨ k = 1 ∨ k = 2 := by
  revert k
  decide

theorem expiry_of_phase_zero {s : State} (h : s.phase = 0) : s.expiry = .next s.allHigh :=
  expiry_of_decode (i := .expireAllHigh) (by rw [h]; rfl)

theorem expiry_of_phase_one {s : State} (h : s.phase = 1) : s.expiry = finish s.awaitCommit :=
  expiry_of_decode (i := .expireAwaitCommit) (by rw [h]; rfl)

theorem expiry_of_phase_two {s : State} (h : s.phase = 2) : s.expiry = finish s.drain :=
  expiry_of_decode (i := .expireDraining) (by rw [h]; rfl)

/-- The sequencer holds no reserved code, and while it drains the cursor is on an entry of the active buffer (R36,
R37). -/
structure State.CursorReady (s : State) : Prop where
  phase : s.phase ≠ 3
  cursor : s.phase = 2 → s.cursor.toNat < s.activeBuf.cnt

/-- `t` has what the command engine reads, and the schedule, from `s`: the parameters, the Channel Table, both buffers,
the Switch Controller, the plan and the moves to come. -/
structure SameEngine (s t : State) : Prop where
  cfg : t.cfg = s.cfg
  ch : t.ch = s.ch
  q0 : t.q0 = s.q0
  q1 : t.q1 = s.q1
  active : t.active = s.active
  switchPending : t.switchPending = s.switchPending
  plan : t.plan = s.plan
  script : t.script = s.script
  draws : t.draws = s.draws
  prepWait : t.prepWait = s.prepWait

theorem SameEngine.activeBuf {s t : State} (h : SameEngine s t) : t.activeBuf = s.activeBuf := by
  simp [State.activeBuf, State.buf, h.active, h.q0, h.q1]

theorem SameEngine.trans {r s t : State} (h : SameEngine r s) (h' : SameEngine s t) : SameEngine r t where
  cfg := h'.cfg.trans h.cfg
  ch := h'.ch.trans h.ch
  q0 := h'.q0.trans h.q0
  q1 := h'.q1.trans h.q1
  active := h'.active.trans h.active
  switchPending := h'.switchPending.trans h.switchPending
  plan := h'.plan.trans h.plan
  script := h'.script.trans h.script
  draws := h'.draws.trans h.draws
  prepWait := h'.prepWait.trans h.prepWait

theorem sameEngine_tick (s : State) : SameEngine s s.tick := by
  constructor <;> simp

theorem sameEngine_allHigh (s : State) : SameEngine s s.allHigh := by
  constructor <;> rfl

theorem sameEngine_schedule (s : State) (x : Entry) (prev : U16) : SameEngine s (s.schedule x prev) := by
  rcases schedule_cases s x prev with ⟨-, e⟩ | ⟨-, e⟩ <;> rw [e] <;> constructor <;> rfl

/-- An index up to the sentinel whose entry is not END is that of an entry before the sentinel (R32). -/
theorem lt_cnt_of_id_ne_end {q : Buffer} {c : Config} (hq : q.Complete c) {k : Nat} {x : Entry} (hk : k ≤ q.cnt)
    (hx : q.e[k]? = some x) (hid : x.id ≠ endId) : k < q.cnt := by
  refine Nat.lt_of_le_of_ne hk fun heq => hid ?_
  obtain ⟨tl, hrest⟩ := rest_eq_of_complete hq
  rw [heq, e_getElem?_cnt, hrest, List.head?_cons, Option.some.injEq] at hx
  rw [← hx]
  rfl

/-- Scheduling the entry that the cursor stands on leaves the cursor ready (R209, R210). -/
theorem cursorReady_schedule {s : State} {x : Entry} (prev : U16) (hq : s.activeBuf.Complete s.cfg)
    (hk : s.cursor.toNat ≤ s.activeBuf.cnt) (hx : s.activeBuf.e[s.cursor.toNat]? = some x) :
    (s.schedule x prev).CursorReady := by
  rcases schedule_cases s x prev with ⟨-, e⟩ | ⟨hid, e⟩ <;> rw [e]
  · exact ⟨by simp, by simp⟩
  · exact ⟨by simp, fun _ => lt_cnt_of_id_ne_end hq hk hx hid⟩

/-- A complete buffer has no more entries than channels (R48). -/
theorem cnt_le_of_length {q : Buffer} {c : Config} (hq : q.Complete c) (hlen : q.e.length = c.n + 1) :
    q.cnt ≤ c.n := by
  obtain ⟨tl, hrest⟩ := rest_eq_of_complete hq
  have h := congrArg List.length (live_append_rest q)
  rw [List.length_append, hrest, List.length_cons, hlen] at h
  rw [Buffer.cnt]
  omega

/-- From an entry of a complete buffer the cursor advances to an entry or to the sentinel (R50, R219). -/
theorem advance_of_complete {q : Buffer} {c : Config} (hq : q.Complete c) (hcnt : q.cnt ≤ 255) {k : Nat}
    (hk : k < q.cnt) :
    ∃ x y, q.e[k]? = some x ∧ q.e[k + x.skip.toNat]? = some y ∧ k + x.skip.toNat ≤ q.cnt := by
  obtain ⟨tl, hrest⟩ := rest_eq_of_complete hq
  obtain ⟨-, -, -, -, -, -, hskips, -⟩ := hq
  have hx : q.live[k]? = some q.live[k] := List.getElem?_eq_getElem hk
  obtain ⟨-, hle, -⟩ := skipsOk_spec _ _ hskips hcnt k _ hx
  have hlt : k + q.live[k].skip.toNat < q.e.length := by
    have h := congrArg List.length (live_append_rest q)
    rw [List.length_append, hrest, List.length_cons] at h
    omega
  exact ⟨_, _, (e_getElem?_live q k hk).trans hx, List.getElem?_eq_getElem hlt, hle⟩

/-- drain goes when the cursor is on an entry of a complete buffer (R210). -/
theorem drain_goes {s : State} (hq : s.activeBuf.Complete s.cfg) (hcnt : s.activeBuf.cnt ≤ 255)
    (hk : s.cursor.toNat < s.activeBuf.cnt) : ∃ t, s.drain = .ok t ∧ SameEngine s t ∧ t.CursorReady := by
  obtain ⟨x, y, hx, hy, hle⟩ := advance_of_complete hq hcnt hk
  have hto : (BitVec.ofNat 8 (s.cursor.toNat + x.skip.toNat)).toNat = s.cursor.toNat + x.skip.toNat := by
    rw [BitVec.toNat_ofNat]
    omega
  refine ⟨_, (drain_eq_ok_iff s _).2 ⟨x, y, hx, hy, rfl⟩, ?_, ?_⟩
  · exact .trans (by constructor <;> rfl) (sameEngine_schedule _ y x.pw)
  · refine cursorReady_schedule x.pw hq ?_ ?_ <;> simp only [hto]
    · exact hle
    · exact hy

/-- The commit point goes when the committed buffer is complete (R209). -/
theorem awaitCommit_goes {s : State} (hq : s.commit.activeBuf.Complete s.cfg) (hcnt : s.commit.activeBuf.cnt ≤ 255) :
    ∃ t, s.awaitCommit = .ok t ∧ SameEngine s.commit t ∧ t.CursorReady := by
  have hcur : SameEngine s.commit { s.commit with cursor := 0 } := by constructor <;> rfl
  have hq' : s.commit.activeBuf.Complete s.commit.cfg := by rwa [commit_cfg]
  obtain ⟨x, hx⟩ : ∃ x, s.commit.activeBuf.e[0]? = some x := by
    rw [← live_append_rest]
    obtain ⟨tl, hrest⟩ := rest_eq_of_complete hq
    cases s.commit.activeBuf.live <;> simp [hrest]
  by_cases hfall : x.id ≠ endId ∧ satsub x.pw s.minPulse = 0
  · obtain ⟨t, ht, hsame, hready⟩ := drain_goes (s := { s.commit with cursor := 0 }) hq' hcnt
      (lt_cnt_of_id_ne_end hq (Nat.zero_le _) hx hfall.1)
    exact ⟨t, (awaitCommit_eq_ok_iff s t).2 ⟨x, hx, .inl ⟨hfall.1, hfall.2, ht⟩⟩, hcur.trans hsame, hready⟩
  · exact ⟨_, (awaitCommit_eq_ok_iff s _).2 ⟨x, hx, .inr ⟨hfall, rfl⟩⟩,
      hcur.trans (sameEngine_schedule _ x s.minPulse),
      cursorReady_schedule (s := { s.commit with cursor := 0 }) s.minPulse hq' (Nat.zero_le _) hx⟩

/-- The expiry step goes when the active buffer is complete and nothing is pending (R207, R216). -/
theorem expiry_goes {s : State} (hready : s.CursorReady) (hq : s.activeBuf.Complete s.cfg)
    (hcnt : s.activeBuf.cnt ≤ 255) (hpend : s.switchPending = false) :
    ∃ t, s.expiry = .next t ∧ SameEngine s t ∧ t.CursorReady := by
  have hcommit : s.commit = s := by simp [State.commit, hpend]
  rcases code_cases s.phase hready.phase with h | h | h
  · exact ⟨_, expiry_of_phase_zero h, sameEngine_allHigh s, ⟨by simp [State.allHigh], by simp [State.allHigh]⟩⟩
  · obtain ⟨t, ht, hsame, hr⟩ := awaitCommit_goes (s := s) (by rwa [hcommit]) (by rwa [hcommit])
    exact ⟨t, by rw [expiry_of_phase_one h, ht, finish], hcommit ▸ hsame, hr⟩
  · obtain ⟨t, ht, hsame, hr⟩ := drain_goes hq hcnt (hready.cursor h)
    exact ⟨t, by rw [expiry_of_phase_two h, ht, finish], hsame, hr⟩

end Sys2Proof.Machine

/-! ## An owed preparation is taken (00_scope.md R17, 92_eei_decisions.md D41)

While a preparation is owed nothing is pending, so no commit point changes the active buffer and the sequencer cannot
stop. Each move that is not phase B or RESET takes one off a count of the moves that can still come before phase B. -/

namespace Sys2Proof.Machine

/-- What the machine keeps from the choice of a preparation until phase B or RESET. It is the part of the invariant that
the moves in between need; of the queues only that they are complete. -/
structure State.Owes (s : State) : Prop where
  shape : s.Shape
  busy : s.busy = true
  kind : s.plan.kind ≠ 3
  notPending : s.switchPending = false
  q0 : s.q0.Complete s.cfg
  q1 : s.q1.Complete s.cfg
  ready : s.CursorReady

theorem owes_of_inv {s : State} (h : s.Inv) (hk : s.plan.kind ≠ 0) : s.Owes := by
  obtain ⟨hshape, ⟨hphase, hkind⟩, -, -, hq0, hq1, ⟨-, -, hidle, -⟩, -, -, -, -, -, hdrain, -⟩ := h
  have hbusy := (busy_eq_true_iff s).2 hk
  exact ⟨hshape, hbusy, hkind, (hidle hbusy).1, hq0, hq1, hphase, fun h2 => (hdrain h2).1⟩

theorem State.Owes.buf_complete {s : State} (h : s.Owes) (b : Bool) : (s.buf b).Complete s.cfg := by
  cases b
  · exact h.q0
  · exact h.q1

/-- A step that leaves the engine alone and the cursor ready leaves the same preparation owed. -/
theorem State.Owes.of_sameEngine {s t : State} (h : s.Owes) (hsame : SameEngine s t) (hready : t.CursorReady) :
    t.Owes where
  shape := by
    rw [State.Shape, hsame.cfg, hsame.ch, hsame.q0, hsame.q1]
    exact h.shape
  busy := by
    rw [State.busy, hsame.plan]
    exact h.busy
  kind := hsame.plan ▸ h.kind
  notPending := hsame.switchPending.trans h.notPending
  q0 := by
    rw [hsame.q0, hsame.cfg]
    exact h.q0
  q1 := by
    rw [hsame.q1, hsame.cfg]
    exact h.q1
  ready := hready

/-- Drawing the next move changes only the schedule. -/
theorem State.Owes.nextMove {s : State} (h : s.Owes) : s.nextMove.2.Owes ∧ s.nextMove.2.plan = s.plan := by
  obtain ⟨hshape, hbusy, hkind, hpend, hq0, hq1, hphase, hcursor⟩ := h
  rcases nextMove_cases s with ⟨m, ms, -, e⟩ | ⟨-, -, -, e⟩ | ⟨-, w, e, -⟩ <;> rw [e] <;>
    exact ⟨⟨hshape, hbusy, hkind, hpend, hq0, hq1, hphase, hcursor⟩, rfl⟩

/-- PREP.INCR goes when its source is complete, and then none is owed (R175, R181). -/
theorem incr_idle {s : State} (hq : s.incrSource.Complete s.cfg) : ∃ u, s.incr = .ok u ∧ u.plan = Plan.idle := by
  obtain ⟨tl, hrest⟩ := rest_eq_of_complete hq
  obtain ⟨-, -, -, -, -, hids, -⟩ := hq
  obtain ⟨u, hu⟩ := incr_goes s (by simp [hrest]) hids
  refine ⟨u, hu, ?_⟩
  obtain ⟨-, -, ⟨-, rfl⟩ | ⟨es, -, rfl⟩⟩ := incr_eq_ok s u hu <;> rfl

/-- Phase B of an owed preparation goes, and then none is owed (R160, R175). -/
theorem State.Owes.phaseB_idle {s : State} (h : s.Owes) : ∃ u, s.phaseB = .next u ∧ u.plan = Plan.idle := by
  rcases code_cases s.plan.kind h.kind with hk | hk | hk
  · exact absurd hk ((busy_eq_true_iff s).1 h.busy)
  · exact ⟨_, phaseB_of_decode (i := .prepRebuild) (by rw [hk]; rfl), rfl⟩
  · have hsrc : s.incrSource.Complete s.cfg := by
      unfold State.incrSource
      split <;> exact h.buf_complete _
    obtain ⟨u, hu, hidle⟩ := incr_idle hsrc
    have hrun : s.phaseB = exec .prepIncr s := phaseB_of_decode (by rw [hk]; rfl)
    exact ⟨u, hrun.trans ((finish_eq_next_iff _ _).2 hu), hidle⟩

/-- While a preparation is owed, phase B and RESET leave none owed (R17, R280). -/
theorem State.Owes.offer_taking {s : State} (h : s.Owes) {m : Move} (hm : m = .prepare ∨ m = .reset) :
    ∃ u, s.offer m = .next u ∧ u.plan = Plan.idle := by
  rcases hm with rfl | rfl
  · rw [offer_of_enabled (show s.enabled .prepare = true from h.busy)]
    exact h.phaseB_idle
  · exact ⟨s.doReset, offer_of_enabled rfl, rfl⟩

/-- While a preparation is owed, every other move goes and leaves it, and the schedule, as they are (R66, R106). -/
theorem State.Owes.offer_waiting {s : State} (h : s.Owes) {m : Move} (hm : ¬ (m = .prepare ∨ m = .reset)) :
    ∃ t, s.offer m = .next t ∧ SameEngine s t ∧ t.CursorReady := by
  by_cases he : s.enabled m = true
  · rw [offer_of_enabled he]
    cases m with
    | command w => simp [State.enabled, h.busy] at he
    | prepare => exact absurd (.inl rfl) hm
    | tick =>
      refine ⟨_, rfl, sameEngine_tick s, by simpa using h.ready.phase, fun h2 => ?_⟩
      rw [(sameEngine_tick s).activeBuf, tick_cursor]
      exact h.ready.cursor (by simpa using h2)
    | expire =>
      have hq := h.buf_complete s.active
      have hcnt := cnt_le_of_length hq (buf_length s s.active h.shape)
      have hn := (valid_bounds h.shape.1).2.1
      exact expiry_goes h.ready hq (by rw [State.activeBuf]; omega) h.notPending
    | reset => exact absurd (.inr rfl) hm
  · exact ⟨s, offer_of_not_enabled he, by constructor <;> rfl, h.ready⟩

/-- How many moves can still come before an owed phase B: what is left of the script, then of the free wait (log 5). -/
def State.movesLeft (s : State) : Nat := s.script.length + s.prepWait.getD (Config.freePrepWait s.draws)

theorem SameEngine.movesLeft {s t : State} (h : SameEngine s t) : t.movesLeft = s.movesLeft := by
  simp [State.movesLeft, h.script, h.draws, h.prepWait]

/-- While a preparation is owed, the next move is phase B or takes one off the moves that can still come before it. -/
theorem movesLeft_nextMove {s : State} (hb : s.busy = true) :
    s.nextMove.1 = .prepare ∨ s.movesLeft = s.nextMove.2.movesLeft + 1 := by
  rcases nextMove_cases s with ⟨m, ms, hs, e⟩ | ⟨-, -, -, e⟩ | ⟨hs, w, e, hw⟩
  · right
    rw [e]
    simp only [State.movesLeft, hs, List.length_cons]
    omega
  · exact .inl (by rw [e])
  · right
    obtain ⟨n, rfl, hn⟩ := hw hb
    simp [e, State.movesLeft, hs, hn]

/-- Some steps on, the preparation that `s` owes is still owed and the next step takes it, or resets the block. -/
def State.PrepTaken (s : State) : Prop :=
  ∃ (k : Nat) (t u : State), Host.Core.run Sys2Proof.core k s = .next t ∧ t.plan = s.plan ∧
    (t.nextMove.1 = .prepare ∨ t.nextMove.1 = .reset) ∧ step t = .next u ∧ u.plan = Plan.idle

/-- A run of `k + 1` steps is a step and a run of `k`. -/
theorem run_succ_of_step {M : Host.Core} {k : Nat} {s r : M.State} (h : M.step s = .next r) :
    M.run (k + 1) s = M.run k r := by
  simp only [Host.Core.run, h]

/-- A step that leaves the plan alone puts one more step before the preparation. -/
theorem State.PrepTaken.of_step {s r : State} (hstep : step s = .next r) (hplan : r.plan = s.plan)
    (h : r.PrepTaken) : s.PrepTaken := by
  obtain ⟨k, t, u, hrun, ht, hmove, hu, hidle⟩ := h
  exact ⟨k + 1, t, u, (run_succ_of_step (M := Sys2Proof.core) hstep).trans hrun, ht.trans hplan, hmove, hu, hidle⟩

theorem State.Owes.prepTaken {s : State} (h : s.Owes) : s.PrepTaken := by
  obtain ⟨n, hn⟩ : ∃ n, s.movesLeft = n := ⟨_, rfl⟩
  induction n using Nat.strong_induction_on generalizing s with
  | _ n ih =>
    obtain ⟨hnext, hplan⟩ := h.nextMove
    have hstep := step_eq s h.shape.1
    by_cases hm : s.nextMove.1 = .prepare ∨ s.nextMove.1 = .reset
    · obtain ⟨u, hu, hidle⟩ := hnext.offer_taking hm
      exact ⟨0, s, u, rfl, rfl, hm, hstep.trans hu, hidle⟩
    · obtain ⟨r, hr, hsame, hready⟩ := hnext.offer_waiting hm
      have hless : s.movesLeft = s.nextMove.2.movesLeft + 1 :=
        (movesLeft_nextMove h.busy).resolve_left fun hp => hm (.inl hp)
      have hlt : r.movesLeft < n := by rw [hsame.movesLeft]; omega
      exact .of_step (hstep.trans hr) (hsame.plan.trans hplan) (ih _ hlt (hnext.of_sameEngine hsame hready) rfl)

/-- Settles O58: an invariant state that owes a preparation keeps owing it while the count of the moves that can still
come falls, and no move in between stops the machine. -/
theorem preparationIsTaken : Obligations.PreparationIsTaken :=
  fun _ h hk => (owes_of_inv h hk).prepTaken

end Sys2Proof.Machine

/-! ## What a command word can do (40_channel_table_commands.md R121 to R131) -/

namespace Sys2Proof.Machine

theorem requireZero_eq_ok {ok : Bool} {i j : Instr} (h : requireZero ok i = .ok j) : i = j := by
  unfold requireZero at h
  split at h
  · exact Except.ok.inj h
  · cases h

/-- What a command word decodes to has a command word as its code: it is one of the nine rows of R92. -/
theorem encode_of_decode_cmd {w : U32} {i : Instr} (h : decode (.cmd w) = .ok i) : ∃ v, encode i = .cmd v := by
  have hop : decodeOp w = .ok i := by
    simp only [decode, decodeCmd] at h
    split at h
    · cases h
    · split at h
      · cases h
      · exact h
  unfold decodeOp at hop
  split at hop
  case h_4 => cases hop; exact ⟨_, rfl⟩
  case h_10 => cases hop
  all_goals
    obtain rfl := requireZero_eq_ok hop
    exact ⟨_, rfl⟩

/-- How a command can leave the Channel Table and the period register: as they are, with a slot bound, with one field of
one channel changed, or with a new period and every assigned width inside its band. -/
inductive TableEdit (s : State) : List Channel → U16 → Prop
  /-- Nothing changes. -/
  | keep : TableEdit s s.ch s.periodWidth
  /-- ATTACH and ATTACHF bind a free slot to a pin that no channel has (R123, R124). -/
  | bind {i : Nat} {pin : U8} (mask : U8) : s.badPin pin = false → s.boundChannel pin = none →
      s.highestFree = some i →
      TableEdit s (s.ch.set i ⟨pin, s.clampw (BitVec.ofNat 16 s.cfg.defaultPulse), mask⟩) s.periodWidth
  /-- ATTACHF and SET_FREQ change the mask of an assigned channel (R124, R128). -/
  | mask {i : Nat} {r : Channel} (m : U8) : s.ch[i]? = some r → r.assigned = true →
      TableEdit s (s.ch.set i { r with mask := m }) s.periodWidth
  /-- SET_PULSE changes the width of an assigned channel (R126). -/
  | width {i : Nat} {r : Channel} (v : U16) : s.ch[i]? = some r → r.assigned = true →
      TableEdit s (s.ch.set i { r with pw := s.clampw v }) s.periodWidth
  /-- DETACH frees a slot (R125). -/
  | free {i : Nat} {r : Channel} : s.ch[i]? = some r →
      TableEdit s (s.ch.set i { r with pin := unassigned }) s.periodWidth
  /-- SET_PERIOD and SET_BASE_FREQ give a new legal period (R130). -/
  | period {p : U16} : 2 * s.cfg.minPulse ≤ p.toNat → TableEdit s (s.withPeriod p).ch p

/-- What phase A of a command leaves. -/
inductive CommandResult (s : State) : Instr → State → Prop
  /-- An answer and nothing else (R95). -/
  | answers (i : Instr) (r : U32) : CommandResult s i { s with rsp := r }
  /-- A rebuild is chosen (R122). A stopped timer keeps its period. It is started by the rebuild, and where the timer
  ran iff some channel was assigned, some channel still is. -/
  | rebuilds (i : Instr) {cs : List Channel} {p : U16} {start resync : Bool} (r : U32) : TableEdit s cs p →
      (start = true → s.timerRun = false) → (resync = true → s.timerRun = true) →
      (s.timerRun = false → p = s.periodWidth) →
      (s.timerRun = s.anyAssigned → cs.any Channel.assigned = true ∧ (s.timerRun = false → start = true)) →
      CommandResult s i { s with
        ch := cs, periodWidth := p, pendingUpdates := 0, switchPending := false
        plan := ⟨1, start, resync, false, 0, 0⟩, rsp := r }
  /-- SET_PULSE chooses an incremental update (R126). -/
  | updates (i : Instr) {c : U8} {old : Channel} (v : U16) (r : U32) : s.ch[c.toNat]? = some old → old.assigned = true →
      s.pendingUpdates = 0 → CommandResult s i { s with
        ch := s.ch.set c.toNat { old with pw := s.clampw v }, switchPending := false
        plan := ⟨2, false, false, s.switchPending, c, s.clampw v⟩, rsp := r }
  /-- A buffered SET_PULSE (R126, R134). -/
  | buffers (i : Instr) {c : U8} {old : Channel} (v : U16) (r : U32) : s.ch[c.toNat]? = some old → old.assigned = true →
      CommandResult s i { s with
        ch := s.ch.set c.toNat { old with pw := s.clampw v }, pendingUpdates := satinc8 s.pendingUpdates, rsp := r }
  /-- DETACH of the last channel stops the timer (R125, R214). -/
  | stops {c : U8} {old : Channel} (r : U32) : s.ch[c.toNat]? = some old →
      (s.ch.set c.toNat { old with pin := unassigned }).any Channel.assigned = false →
      CommandResult s (.detach c)
        { State.stop { s with ch := s.ch.set c.toNat { old with pin := unassigned } } with rsp := r }
  /-- A new period while the timer is stopped (R130). -/
  | empties (i : Instr) {p : U16} (r : U32) : 2 * s.cfg.minPulse ≤ p.toNat → s.timerRun = false →
      CommandResult s i { (s.withPeriod p).emptyBuffers p with rsp := r }
  /-- FORCE_RESYNC with nothing buffered (R131, R215). -/
  | restarts (i : Instr) (r : U32) : s.timerRun = true → CommandResult s i { s.restart with rsp := r }

theorem any_assigned_of_mem {cs : List Channel} {c : Channel} (h : c ∈ cs) (ha : c.assigned = true) :
    cs.any Channel.assigned = true :=
  List.any_eq_true.2 ⟨c, h, ha⟩

theorem mem_set_of_getElem? {cs : List Channel} {i : Nat} {r : Channel} (h : cs[i]? = some r) (c : Channel) :
    c ∈ cs.set i c :=
  List.mem_set (List.getElem?_eq_some_iff.1 h).1 c

theorem getD_of_getElem? {cs : List Channel} {i : Nat} {r : Channel} (h : cs[i]? = some r) (d : Channel) :
    cs.getD i d = r := by
  simp [List.getD_eq_getElem?_getD, h]

/-- The free slot that ATTACH binds is a slot of the table (R132). -/
theorem highestFree_spec {s : State} {i : Nat} (h : s.highestFree = some i) :
    ∃ r, s.ch[i]? = some r ∧ r.assigned = false := by
  obtain ⟨⟨r, hr, hp⟩, -⟩ := (lastIndex_eq_some_iff _ _ _).1 h
  exact ⟨r, hr, by simpa using hp⟩

/-- The channel that ATTACH finds has the pin (R123). -/
theorem boundChannel_spec {s : State} {pin : U8} {i : Nat} (h : s.boundChannel pin = some i) :
    ∃ r, s.ch[i]? = some r ∧ r.pin = pin := by
  obtain ⟨⟨r, hr, hp⟩, -⟩ := (firstIndex_eq_some_iff _ _ _).1 h
  exact ⟨r, hr, by simpa using hp⟩

theorem assigned_iff (c : Channel) : c.assigned = true ↔ c.pin ≠ unassigned := by simp [Channel.assigned]

theorem pin_ne_of_badPin {s : State} {pin : U8} (h : s.badPin pin = false) : pin ≠ unassigned :=
  ((badPin_eq_false_iff s pin).1 h).1

theorem validCh_record {s : State} {c : U8} (h : s.validCh c = true) :
    ∃ r, s.ch[c.toNat]? = some r ∧ r.assigned = true ∧ s.channel c = r := by
  obtain ⟨r, hr⟩ := (validCh_eq_true_iff s c).1 h
  exact ⟨r, hr.2.1, (assigned_iff r).2 hr.2.2, channel_of_valid s c r hr⟩

theorem bindNew_result (i : Instr) {s : State} {k : Nat} {pin : U8} (mask : U8) (hbad : s.badPin pin = false)
    (hbound : s.boundChannel pin = none) (hfree : s.highestFree = some k) :
    CommandResult s i (s.bindNew k pin mask) := by
  obtain ⟨r, hr, -⟩ := highestFree_spec hfree
  exact .rebuilds i _ (.bind mask hbad hbound hfree) (by simp) (by simp) (fun _ => rfl) fun _ =>
    ⟨any_assigned_of_mem (mem_set_of_getElem? hr _) ((assigned_iff _).2 (pin_ne_of_badPin hbad)), by simp⟩

theorem changeMask_result (i : Instr) {s : State} {k : Nat} {r : Channel} (m : U8) (v : U16) (hr : s.ch[k]? = some r)
    (ha : r.assigned = true) : CommandResult s i ((s.changeMask k m).respondOk v) := by
  rcases changeMask_cases s k m with ⟨-, e⟩ | ⟨-, e⟩ <;> rw [e]
  · exact .answers i _
  · rw [getD_of_getElem? hr]
    have hany : s.anyAssigned = true := any_assigned_of_mem (List.mem_of_getElem? hr) ha
    exact .rebuilds i _ (.mask m hr ha) (by simp) (by simp) (fun _ => rfl) fun hrun =>
      ⟨any_assigned_of_mem (mem_set_of_getElem? hr _) ha, by simp [hrun, hany]⟩

theorem attach_result (s : State) (pin : U8) :
    ∃ t, execAttach pin s = .next t ∧ CommandResult s (.attach pin) t := by
  unfold execAttach
  split
  · exact ⟨_, rfl, .answers _ _⟩
  · rename_i hbad
    split
    · exact ⟨_, rfl, .answers _ _⟩
    · rename_i hbound
      split
      · exact ⟨_, rfl, .answers _ _⟩
      · exact ⟨_, rfl, bindNew_result _ _ (Bool.eq_false_iff.2 hbad) hbound ‹_›⟩

theorem attachf_result (s : State) (pin mask : U8) :
    ∃ t, execAttachf pin mask s = .next t ∧ CommandResult s (.attachf pin mask) t := by
  unfold execAttachf
  split
  · exact ⟨_, rfl, .answers _ _⟩
  · rename_i hbad
    split
    · rename_i k hk
      obtain ⟨r, hr, rfl⟩ := boundChannel_spec hk
      exact ⟨_, rfl, changeMask_result _ _ _ hr ((assigned_iff r).2 (pin_ne_of_badPin (Bool.eq_false_iff.2 hbad)))⟩
    · rename_i hbound
      split
      · exact ⟨_, rfl, .answers _ _⟩
      · exact ⟨_, rfl, bindNew_result _ _ (Bool.eq_false_iff.2 hbad) hbound ‹_›⟩

theorem detach_result (s : State) (c : U8) : ∃ t, execDetach c s = .next t ∧ CommandResult s (.detach c) t := by
  unfold execDetach
  split
  · rename_i hv
    obtain ⟨r, hr, ha, hc⟩ := validCh_record hv
    have hfree : s.freeSlot c = { s with ch := s.ch.set c.toNat { r with pin := unassigned } } := by
      simp only [State.freeSlot, State.setChannel, hc]
    have hany : s.anyAssigned = true := any_assigned_of_mem (List.mem_of_getElem? hr) ha
    refine ⟨_, rfl, ?_⟩
    simp only [hfree]
    split
    · rename_i hleft
      exact .rebuilds _ _ (.free hr) (by simp) (by simp) (fun _ => rfl) fun hrun => ⟨hleft, by simp [hrun, hany]⟩
    · exact .stops _ hr (Bool.eq_false_iff.2 ‹_›)
  · exact ⟨_, rfl, .answers _ _⟩

theorem setPulse_result (s : State) (b : Bool) (c : U8) (v : U16) :
    ∃ t, execSetPulse b c v s = .next t ∧ CommandResult s (.setPulse b c v) t := by
  unfold execSetPulse
  split
  · rename_i hv
    obtain ⟨r, hr, ha, hc⟩ := validCh_record hv
    simp only [hc]
    split
    · exact ⟨_, rfl, .answers _ _⟩
    · refine ⟨_, rfl, ?_⟩
      rcases widthChanged_cases (s.setChannel c.toNat { r with pw := s.clampw v }) b c (s.clampw v) with
        ⟨-, e⟩ | ⟨-, hp, e⟩ | ⟨-, -, e⟩ <;> rw [e]
      · exact .buffers _ v _ hr ha
      · exact .updates _ v _ hr ha hp
      · have hany : s.anyAssigned = true := any_assigned_of_mem (List.mem_of_getElem? hr) ha
        exact .rebuilds _ _ (.width v hr ha) (by simp) (by simp) (fun _ => rfl) fun hrun =>
          ⟨any_assigned_of_mem (mem_set_of_getElem? hr _) ha, by simp [hrun, hany]⟩
  · exact ⟨_, rfl, .answers _ _⟩

theorem getPulse_result (s : State) (c : U8) : ∃ t, execGetPulse c s = .next t ∧ CommandResult s (.getPulse c) t := by
  unfold execGetPulse
  split <;> exact ⟨_, rfl, .answers _ _⟩

theorem setFreq_result (s : State) (c mask : U8) :
    ∃ t, execSetFreq c mask s = .next t ∧ CommandResult s (.setFreq c mask) t := by
  unfold execSetFreq
  split
  · obtain ⟨r, hr, ha, -⟩ := validCh_record ‹_›
    exact ⟨_, rfl, changeMask_result _ _ _ hr ha⟩
  · exact ⟨_, rfl, .answers _ _⟩

/-- Re-clamping leaves the pins as they are (R130). -/
theorem withPeriod_pins (s : State) (p : U16) : (s.withPeriod p).ch.map Channel.pin = s.ch.map Channel.pin := by
  simp only [State.withPeriod, State.reclamp, List.map_map]
  refine List.map_congr_left fun c _ => ?_
  simp only [Function.comp]
  split <;> rfl

/-- Whether a channel is assigned depends on the pins of the table alone (R22). -/
theorem any_assigned_eq (cs : List Channel) : cs.any Channel.assigned = (cs.map Channel.pin).any (· != unassigned) := by
  rw [List.any_map]
  rfl

theorem setPeriodCommon_result (i : Instr) (s : State) (p : U16) : CommandResult s i (s.setPeriodCommon p) := by
  rcases setPeriodCommon_cases s p with ⟨-, e⟩ | ⟨-, -, e⟩ | ⟨hp, -, hrun, e⟩ | ⟨hp, -, hrun, e⟩ <;> rw [e]
  · exact .answers _ _
  · exact .answers _ _
  · exact .rebuilds i _ (.period hp) (by simp) (by simp) (by simp [hrun]) fun hany => by
      rw [chooseRebuild_ch, any_assigned_eq, withPeriod_pins, ← any_assigned_eq]
      exact ⟨hany.symm.trans hrun, by simp [hrun]⟩
  · exact .empties i _ hp hrun

theorem setBaseFreq_result (s : State) (hz : U16) :
    ∃ t, execSetBaseFreq hz s = .next t ∧ CommandResult s (.setBaseFreq hz) t := by
  unfold execSetBaseFreq
  split
  · exact ⟨_, rfl, setPeriodCommon_result _ s _⟩
  · exact ⟨_, rfl, .answers _ _⟩

theorem forceResync_result (s : State) : ∃ t, execForceResync s = .next t ∧ CommandResult s .forceResync t := by
  unfold execForceResync
  split
  · rename_i hrun
    refine ⟨_, rfl, ?_⟩
    split
    · exact .restarts _ _ hrun
    · exact .rebuilds _ _ .keep (by simp) (fun _ => hrun) (fun _ => rfl) fun hany =>
        ⟨hany.symm.trans hrun, by simp [hrun]⟩
  · exact ⟨_, rfl, .answers _ _⟩

/-- Every command goes, to one of the results above (R136). -/
theorem exec_command_result {i : Instr} {v : U32} (hi : encode i = .cmd v) (s : State) :
    ∃ t, exec i s = .next t ∧ CommandResult s i t := by
  cases i with
  | attach pin => exact attach_result s pin
  | attachf pin mask => exact attachf_result s pin mask
  | detach c => exact detach_result s c
  | setPulse b c w => exact setPulse_result s b c w
  | getPulse c => exact getPulse_result s c
  | setFreq c mask => exact setFreq_result s c mask
  | setBaseFreq hz => exact setBaseFreq_result s hz
  | setPeriod w => exact ⟨_, rfl, setPeriodCommon_result _ s w⟩
  | forceResync => exact forceResync_result s
  | prepRebuild => cases hi
  | prepIncr => cases hi
  | expireAllHigh => cases hi
  | expireAwaitCommit => cases hi
  | expireDraining => cases hi

/-- Phase A goes: an illegal word is answered and nothing else, an accepted one leaves its command's result (R17, R133,
R136). -/
theorem phaseA_result (s : State) (w : U32) :
    ∃ t, s.phaseA w = .next t ∧
      (t = { s with rsp := illegalWord } ∨ ∃ i, decode (.cmd w) = .ok i ∧ CommandResult s i t) := by
  cases hd : decode (.cmd w) with
  | error e => exact ⟨_, by simp only [State.phaseA, hd], .inl (respondIllegal_eq_illegalWord s)⟩
  | ok i =>
    obtain ⟨v, hv⟩ := encode_of_decode_cmd hd
    obtain ⟨t, ht, hr⟩ := exec_command_result hv s
    exact ⟨t, (phaseA_of_decode s hd).trans ht, .inr ⟨i, rfl, hr⟩⟩

end Sys2Proof.Machine

/-! ## What each move can change (00_scope.md R17, R66)

The other moves said once, as the commands are above: the expiry step, phase B, and the step as a whole. The claims that
name a field and the moves that can change it are read off these. -/

namespace Sys2Proof.Machine

/-- The state whose active buffer an expiry step reads: at the commit point the commit comes first (R193, R209). -/
def State.committed (s : State) : State := if s.phase = 1 then s.commit else s

theorem committed_of_phase_one {s : State} (h : s.phase = 1) : s.committed = s.commit := if_pos h

theorem committed_of_phase_ne {s : State} (h : s.phase ≠ 1) : s.committed = s := if_neg h

/-- A commit writes `active` and the flag, and only a pending swap makes it (R193). -/
theorem committed_eq (s : State) :
    s.committed = { s with active := s.committed.active, switchPending := s.committed.switchPending } := by
  unfold State.committed
  split
  · rcases commit_cases s with ⟨-, e⟩ | ⟨-, e⟩ <;> rw [e]
  · rfl

/-- The fault of the reserved phase is the only answer in it, so a step that goes runs one of the three arms (R207,
R212). -/
theorem expiry_eq_next {s t : State} (h : s.expiry = .next t) :
    (s.phase = 0 ∧ t = s.allHigh) ∨ (s.phase = 1 ∧ s.awaitCommit = .ok t) ∨ (s.phase = 2 ∧ s.drain = .ok t) := by
  have hphase : s.phase ≠ 3 := fun h3 => by
    simp [State.expiry, decode, decodePhase, h3] at h
  rcases code_cases s.phase hphase with h0 | h1 | h2
  · rw [expiry_of_phase_zero h0] at h
    cases h
    exact .inl ⟨h0, rfl⟩
  · rw [expiry_of_phase_one h1] at h
    exact .inr (.inl ⟨h1, (finish_eq_next_iff _ _).1 h⟩)
  · rw [expiry_of_phase_two h2] at h
    exact .inr (.inr ⟨h2, (finish_eq_next_iff _ _).1 h⟩)

/-- The pins of `m` fall and the cursor moves to `k`. -/
def State.fall (s : State) (m : Pins) (k : U8) : State := { s with gpioOut := s.gpioOut &&& ~~~ m, cursor := k }

/-- With no pin falling the cursor moves and nothing else. -/
theorem fall_none (s : State) (k : U8) : s.fall 0 k = { s with cursor := k } := by
  rw [State.fall, show ~~~ (0 : Pins) = BitVec.allOnes 255 from rfl, BitVec.and_allOnes]

/-- An expiry step starts the period, or, after the commit if one is due, lets some pins fall, moves the cursor and
schedules the event of an entry (R208 to R210). -/
theorem expiry_cases {s t : State} (h : s.expiry = .next t) :
    (s.phase = 0 ∧ t = s.allHigh) ∨
    (s.phase ≠ 0 ∧ ∃ m k x prev, t = (s.committed.fall m k).schedule x prev) := by
  rcases expiry_eq_next h with ⟨h0, rfl⟩ | ⟨h1, ht⟩ | ⟨h2, ht⟩
  · exact .inl ⟨h0, rfl⟩
  · refine .inr ⟨by simp [h1], ?_⟩
    rw [committed_of_phase_one h1]
    obtain ⟨x, -, ⟨-, -, hd⟩ | ⟨-, rfl⟩⟩ := (awaitCommit_eq_ok_iff s t).1 ht
    · obtain ⟨x, y, -, -, rfl⟩ := (drain_eq_ok_iff _ t).1 hd
      exact ⟨x.clear, _, y, x.pw, rfl⟩
    · exact ⟨0, 0, x, s.minPulse, by rw [fall_none]⟩
  · refine .inr ⟨by simp [h2], ?_⟩
    rw [committed_of_phase_ne (by simp [h2])]
    obtain ⟨x, y, -, -, rfl⟩ := (drain_eq_ok_iff s t).1 ht
    exact ⟨x.clear, _, y, x.pw, rfl⟩

/-- What the sequencer and the tick leave as it is (R66, R206): what the command engine reads, and whether the timer
runs. -/
structure SequencerFrame (s t : State) : Prop extends SameEngine s t where
  periodWidth : t.periodWidth = s.periodWidth
  pendingUpdates : t.pendingUpdates = s.pendingUpdates
  timerRun : t.timerRun = s.timerRun

theorem sequencerFrame_tick (s : State) : SequencerFrame s s.tick :=
  ⟨sameEngine_tick s, by simp, by simp, by simp⟩

theorem sequencerFrame_schedule (s : State) (m : Pins) (k : U8) (x : Entry) (prev : U16) :
    SequencerFrame s ((s.fall m k).schedule x prev) := by
  rcases schedule_cases (s.fall m k) x prev with ⟨-, e⟩ | ⟨-, e⟩ <;> rw [e] <;>
    exact ⟨by constructor <;> rfl, rfl, rfl, rfl⟩

/-- An expiry step writes no more of what the command engine reads than its commit does (R66). -/
theorem expiry_frame {s t : State} (h : s.expiry = .next t) : SequencerFrame s.committed t := by
  rcases expiry_cases h with ⟨h0, rfl⟩ | ⟨-, m, k, x, prev, rfl⟩
  · rw [committed_of_phase_ne (by simp [h0])]
    exact ⟨sameEngine_allHigh s, rfl, rfl, rfl⟩
  · exact sequencerFrame_schedule _ _ k x prev

/-- Phase B of a preparation that goes is a rebuild or an update (R98, R160, R175). -/
theorem phaseB_cases {s t : State} (h : s.phaseB = .next t) :
    (s.plan.kind = 1 ∧ t = s.rebuild s.plan.start s.plan.resync) ∨ (s.plan.kind = 2 ∧ s.incr = .ok t) := by
  have hkind : s.plan.kind ≠ 3 := fun h3 => by
    simp [State.phaseB, decode, decodePlan, h3] at h
  rcases code_cases s.plan.kind hkind with h0 | h1 | h2
  · simp [State.phaseB, decode, decodePlan, h0] at h
  · rw [phaseB_of_decode (i := .prepRebuild) (by rw [h1]; rfl)] at h
    cases h
    exact .inl ⟨h1, rfl⟩
  · rw [phaseB_of_decode (i := .prepIncr) (by rw [h2]; rfl)] at h
    exact .inr ⟨h2, (finish_eq_next_iff _ _).1 h⟩

/-- What phase B leaves as it is (R66): the table, `active` and the pins; and the timer too, unless it starts it. -/
structure PrepareFrame (s t : State) (start : Bool) : Prop where
  cfg : t.cfg = s.cfg
  ch : t.ch = s.ch
  periodWidth : t.periodWidth = s.periodWidth
  active : t.active = s.active
  gpioOut : t.gpioOut = s.gpioOut
  timerRun : t.timerRun = (s.timerRun || start)

theorem prepareFrame_rebuild (s : State) (a b : Bool) : PrepareFrame s (s.rebuild a b) a := by
  rw [rebuild_eq]
  constructor <;> cases a <;> simp

theorem prepareFrame_setBuf_rebuild (s : State) (b : Bool) (q : Buffer) :
    PrepareFrame s ((s.setBuf b q).rebuild false false) false := by
  obtain ⟨h1, h2, h3, h4, h5, h6⟩ := prepareFrame_rebuild (s.setBuf b q) false false
  constructor <;> simp_all

theorem prepareFrame_incr {s t : State} (h : s.incr = .ok t) : PrepareFrame s t false := by
  obtain ⟨-, -, ⟨-, rfl⟩ | ⟨es, -, rfl⟩⟩ := incr_eq_ok s t h
  · exact prepareFrame_setBuf_rebuild s _ _
  · constructor <;> simp

theorem phaseB_frame {s t : State} (h : s.phaseB = .next t) :
    ∃ start, PrepareFrame s t start ∧ (start = true → s.plan.kind = 1 ∧ s.plan.start = true) := by
  rcases phaseB_cases h with ⟨hk, rfl⟩ | ⟨-, ht⟩
  · exact ⟨_, prepareFrame_rebuild s _ _, fun hs => ⟨hk, hs⟩⟩
  · exact ⟨false, prepareFrame_incr ht, by simp⟩

/-- Drawing the next move changes only the model's own fields (logs 3 and 5). -/
theorem nextMove_eq (s : State) :
    ∃ ms d w, s.nextMove.2 = { s with script := ms, draws := d, prepWait := w } := by
  rcases nextMove_cases s with ⟨m, ms, -, e⟩ | ⟨-, -, -, e⟩ | ⟨-, w, e, -⟩ <;> rw [e] <;> exact ⟨_, _, _, rfl⟩

/-- A step drops a move that is not enabled, or performs it (R17, R106). -/
theorem step_cases {s t : State} (h : step s = .next t) :
    ∃ ms d w, let u := { s with script := ms, draws := d, prepWait := w }
      t = u ∨ (State.enabled u s.nextMove.1 = true ∧ State.perform u s.nextMove.1 = .next t) := by
  obtain ⟨ms, d, w, hu⟩ := nextMove_eq s
  rw [step_eq s (step_next_valid s t h), hu] at h
  refine ⟨ms, d, w, ?_⟩
  by_cases he : State.enabled { s with script := ms, draws := d, prepWait := w } s.nextMove.1 = true
  · rw [offer_of_enabled he] at h
    exact .inr ⟨he, h⟩
  · rw [offer_of_not_enabled he] at h
    cases h
    exact .inl rfl

/-! ### The Channel Table (10_state.md R22, R23, R25, R49) -/

/-- Commands edit the Channel Table and the period register in the ways of `TableEdit`. -/
theorem CommandResult.tableEdit {s t : State} {i : Instr} (h : CommandResult s i t) :
    t.cfg = s.cfg ∧ TableEdit s t.ch t.periodWidth := by
  cases h with
  | answers => exact ⟨rfl, .keep⟩
  | rebuilds _ r he => exact ⟨rfl, he⟩
  | updates _ v r hr ha => exact ⟨rfl, .width v hr ha⟩
  | buffers _ v r hr ha => exact ⟨rfl, .width v hr ha⟩
  | stops r hr => exact ⟨rfl, .free hr⟩
  | empties _ r hp => exact ⟨rfl, .period hp⟩
  | restarts => exact ⟨rfl, .keep⟩

/-- Every move edits the table as a command does, or resets the block (R66, R280). -/
theorem perform_tableEdit {s t : State} {m : Move} (h : s.perform m = .next t) :
    t.cfg = s.cfg ∧ (TableEdit s t.ch t.periodWidth ∨ (m = .reset ∧ t = s.doReset)) := by
  cases m with
  | command w =>
    obtain ⟨u, hu, hr⟩ := phaseA_result s w
    obtain rfl : u = t := by simpa using hu.symm.trans h
    rcases hr with rfl | ⟨i, -, hr⟩
    · exact ⟨rfl, .inl .keep⟩
    · obtain ⟨hcfg, he⟩ := hr.tableEdit
      exact ⟨hcfg, .inl he⟩
  | prepare =>
    obtain ⟨_, hf, -⟩ := phaseB_frame h
    exact ⟨hf.cfg, .inl (by rw [hf.ch, hf.periodWidth]; exact .keep)⟩
  | tick =>
    cases h
    exact ⟨tick_cfg s, .inl (by rw [tick_ch, tick_periodWidth]; exact .keep)⟩
  | expire =>
    have hf := expiry_frame h
    have hs := committed_eq s
    have hcfg : t.cfg = s.cfg := by rw [hf.cfg, hs]
    have hch : t.ch = s.ch := by rw [hf.ch, hs]
    have hp : t.periodWidth = s.periodWidth := by rw [hf.periodWidth, hs]
    exact ⟨hcfg, .inl (by rw [hch, hp]; exact .keep)⟩
  | reset =>
    cases h
    exact ⟨rfl, .inr ⟨rfl, rfl⟩⟩

/-- An invariant that does not read the model's own fields and that every enabled move keeps is kept by every step. -/
theorem step_keeps {P : State → Prop}
    (hown : ∀ s ms d w, P s → P { s with script := ms, draws := d, prepWait := w })
    (hmove : ∀ s t m, s.cfg.valid = true → P s → s.enabled m = true → s.perform m = .next t → P t)
    {s t : State} (hs : P s) (h : step s = .next t) : P t := by
  obtain ⟨ms, d, w, rfl | ⟨he, hp⟩⟩ := step_cases h
  · exact hown s ms d w hs
  · exact hmove { s with script := ms, draws := d, prepWait := w } t _ (step_next_valid s t h) (hown s ms d w hs) he hp

/-! The clauses on the pins, read off the list of pins alone. -/

theorem pinsOk_iff (s : State) :
    s.PinsOk ↔ (∀ p ∈ s.ch.map Channel.pin, p ≠ unassigned → p.toNat < s.cfg.npins) ∧
      (s.ch.map Channel.pin).Pairwise (fun p q => p ≠ unassigned → p ≠ q) := by
  simp only [State.PinsOk, assigned_iff, List.forall_mem_map, List.pairwise_map]

/-- Writing UNASSIGNED, or a pin that the list does not hold, keeps the assigned pins distinct. -/
theorem pairwise_pins_set {ps : List U8} (i : Nat) {q : U8} (hq : q ≠ unassigned → q ∉ ps)
    (h : ps.Pairwise (fun p q => p ≠ unassigned → p ≠ q)) :
    (ps.set i q).Pairwise (fun p q => p ≠ unassigned → p ≠ q) := by
  rw [List.pairwise_iff_getElem] at h ⊢
  intro j k hj hk hjk hne
  simp only [List.length_set] at hj hk
  rw [List.getElem_set] at hne
  rw [List.getElem_set, List.getElem_set]
  by_cases hij : i = j
  · rw [if_pos hij] at hne ⊢
    rw [if_neg (by omega)]
    exact fun e => hq hne (e ▸ List.getElem_mem hk)
  · rw [if_neg hij] at hne ⊢
    split
    · exact fun e => hq (e ▸ hne) (e ▸ List.getElem_mem hj)
    · exact h j k hj hk hjk hne

/-- Writing back a record with the pin it had leaves the pins as they are. -/
theorem map_pin_set_self {cs : List Channel} {i : Nat} {r c : Channel} (h : cs[i]? = some r) (hpin : c.pin = r.pin) :
    (cs.set i c).map Channel.pin = cs.map Channel.pin := by
  obtain ⟨hi, rfl⟩ := List.getElem?_eq_some_iff.1 h
  rw [List.map_set, hpin, ← List.getElem_map Channel.pin (h := by simpa using hi), List.set_getElem_self]

/-- A command leaves the pins of the table alone, or frees a slot, or binds one to an existing pin that no channel
has. -/
theorem TableEdit.pins {s : State} {cs : List Channel} {p : U16} (h : TableEdit s cs p) :
    cs.map Channel.pin = s.ch.map Channel.pin ∨
    ∃ i q, cs.map Channel.pin = (s.ch.map Channel.pin).set i q ∧
      (q ≠ unassigned → q.toNat < s.cfg.npins ∧ q ∉ s.ch.map Channel.pin) := by
  cases h with
  | keep => exact .inl rfl
  | bind mask hbad hbound hfree =>
    refine .inr ⟨_, _, List.map_set, fun _ => ⟨((badPin_eq_false_iff s _).1 hbad).2, fun hmem => ?_⟩⟩
    obtain ⟨c, hc, rfl⟩ := List.mem_map.1 hmem
    simpa using (firstIndex_eq_none_iff _ _).1 hbound c hc
  | mask m hr ha => exact .inl (map_pin_set_self hr rfl)
  | width v hr ha => exact .inl (map_pin_set_self hr rfl)
  | free hr => exact .inr ⟨_, _, List.map_set, fun hne => absurd rfl hne⟩
  | period hp => exact .inl (withPeriod_pins s p)

theorem TableEdit.pinsOk {s t : State} (h : TableEdit s t.ch t.periodWidth) (hcfg : t.cfg = s.cfg) (hs : s.PinsOk) :
    t.PinsOk := by
  rw [pinsOk_iff] at hs ⊢
  obtain ⟨hlt, hne⟩ := hs
  rcases h.pins with e | ⟨i, q, e, hq⟩ <;> rw [e, hcfg]
  · exact ⟨hlt, hne⟩
  · refine ⟨fun p hp hpu => ?_, pairwise_pins_set i (fun hu => (hq hu).2) hne⟩
    rcases List.mem_or_eq_of_mem_set hp with hp | rfl
    · exact hlt p hp hpu
    · exact (hq hpu).1

theorem pinsOk_resetWith (c : Config) : (State.resetWith c).PinsOk := by
  simp [pinsOk_iff, State.resetWith, freeChannel, List.pairwise_replicate]

/-- Settles O47: a command edits the pins by freeing a slot or by binding one to a new existing pin; no other move but
RESET writes the table. -/
theorem pinsStayDistinct : Obligations.PinsStayDistinct := by
  intro s t hs h
  refine step_keeps (P := State.PinsOk) (fun s _ _ _ hs => hs) (fun s t m _ hs _ hp => ?_) hs h
  obtain ⟨hcfg, he | ⟨-, rfl⟩⟩ := perform_tableEdit hp
  · exact he.pinsOk hcfg hs
  · exact pinsOk_resetWith s.cfg

/-- The clamp puts a width inside the band of a legal period (R121). -/
theorem clampw_band {s : State} (hp : 2 * s.cfg.minPulse ≤ s.periodWidth.toNat) (v : U16) :
    s.cfg.minPulse ≤ (s.clampw v).toNat ∧ (s.clampw v).toNat + s.cfg.minPulse ≤ s.periodWidth.toNat := by
  obtain ⟨hlo, hhi⟩ := clamp_mem v.toNat s.cfg.minPulse (s.periodWidth.toNat - s.cfg.minPulse) (by omega)
  have hlt := s.periodWidth.isLt
  rw [State.clampw, BitVec.toNat_ofNat, Nat.mod_eq_of_lt (by omega)]
  omega

/-- Writing one record keeps the band if the record, when assigned, is inside it. -/
theorem bandOk_set {s : State} {i : Nat} {c : Channel} (hs : s.BandOk)
    (hc : c.assigned = true → s.cfg.minPulse ≤ c.pw.toNat ∧ c.pw.toNat + s.cfg.minPulse ≤ s.periodWidth.toNat) :
    ∀ d ∈ s.ch.set i c, d.assigned = true →
      s.cfg.minPulse ≤ d.pw.toNat ∧ d.pw.toNat + s.cfg.minPulse ≤ s.periodWidth.toNat := by
  intro d hd ha
  rcases List.mem_or_eq_of_mem_set hd with hd | rfl
  · exact hs.2 d hd ha
  · exact hc ha

/-- A command keeps the period legal and the widths in its band: it writes a clamped width, re-clamps them all to a new
period, or writes no width of an assigned channel (R121, R130). -/
theorem TableEdit.band {s : State} {cs : List Channel} {p : U16} (h : TableEdit s cs p) (hs : s.BandOk) :
    2 * s.cfg.minPulse ≤ p.toNat ∧ ∀ c ∈ cs, c.assigned = true →
      s.cfg.minPulse ≤ c.pw.toNat ∧ c.pw.toNat + s.cfg.minPulse ≤ p.toNat := by
  cases h with
  | keep => exact hs
  | bind => exact ⟨hs.1, bandOk_set hs fun _ => clampw_band hs.1 _⟩
  | mask m hr ha => exact ⟨hs.1, bandOk_set hs fun _ => (hs.2 _ (List.mem_of_getElem? hr) ha :)⟩
  | width v hr ha => exact ⟨hs.1, bandOk_set hs fun _ => clampw_band hs.1 v⟩
  | free hr => exact ⟨hs.1, bandOk_set hs fun ha => absurd ha (by simp [Channel.assigned])⟩
  | period hp =>
    refine ⟨hp, fun c hc ha => ?_⟩
    obtain ⟨d, -, rfl⟩ := List.mem_map.1 hc
    by_cases hd : d.assigned = true
    · rw [if_pos hd]
      exact clampw_band (s := { s with periodWidth := p }) hp d.pw
    · rw [if_neg hd] at ha
      exact absurd ha hd

theorem bandOk_resetWith {c : Config} (hc : c.valid = true) : (State.resetWith c).BandOk := by
  obtain ⟨-, -, -, -, -, -, -, -, -, hlo, hhi⟩ := valid_bounds hc
  refine ⟨?_, fun d hd ha => ?_⟩
  · change 2 * c.minPulse ≤ (BitVec.ofNat 16 c.defaultPeriod).toNat
    rw [BitVec.toNat_ofNat]
    omega
  · rw [List.eq_of_mem_replicate hd] at ha
    cases ha

/-- Settles O48: a command writes only clamped widths, a new period re-clamps them all, and no other move but RESET
writes the table. -/
theorem widthsStayInBand : Obligations.WidthsStayInBand := by
  intro s t hs h
  refine step_keeps (P := State.BandOk) (fun s _ _ _ hs => hs) (fun s t m hv hs _ hp => ?_) hs h
  obtain ⟨hcfg, he | ⟨-, rfl⟩⟩ := perform_tableEdit hp
  · rw [State.BandOk, hcfg]
    exact he.band hs
  · exact bandOk_resetWith hv

end Sys2Proof.Machine

/-! ## Which moves change `active`, the pins and the timer (10_state.md R34, R40, R42) -/

namespace Sys2Proof.Machine

/-- `t` has the active buffer's index, the timer's run flag and the pins of `s`. -/
structure SameOutputs (s t : State) : Prop where
  active : t.active = s.active
  timerRun : t.timerRun = s.timerRun
  gpioOut : t.gpioOut = s.gpioOut

/-- A command leaves the three alone, unless it is a DETACH that stops the timer (R125, R214). -/
theorem CommandResult.outputs {s t : State} {i : Instr} (h : CommandResult s i t) :
    SameOutputs s t ∨ ∃ c, i = .detach c ∧ t.active = false ∧ t.timerRun = false ∧
      t.gpioOut = s.gpioOut &&& ~~~ s.asserted := by
  cases h with
  | answers => exact .inl ⟨rfl, rfl, rfl⟩
  | rebuilds => exact .inl ⟨rfl, rfl, rfl⟩
  | updates => exact .inl ⟨rfl, rfl, rfl⟩
  | buffers => exact .inl ⟨rfl, rfl, rfl⟩
  | stops => exact .inr ⟨_, rfl, rfl, rfl, rfl⟩
  | empties => exact .inl ⟨rfl, rfl, rfl⟩
  | restarts => exact .inl ⟨rfl, rfl, rfl⟩

/-- Every pin of `a` is one of `b`. -/
abbrev PinsWithin (a b : Pins) : Prop := ∀ p, a.getLsbD p = true → b.getLsbD p = true

theorem and_within (a b : Pins) : PinsWithin (a &&& b) a := fun p h => by
  rw [BitVec.getLsbD_and, Bool.and_eq_true] at h
  exact h.1

/-- A step leaves the three alone, or is an expiry step, or starts the timer by a rebuild, or stops it. -/
theorem step_outputs {s t : State} (h : step s = .next t) :
    SameOutputs s t ∨
    (s.nextMove.1 = .expire ∧
      ∃ ms d w, State.expiry { s with script := ms, draws := d, prepWait := w } = .next t) ∨
    (s.nextMove.1 = .prepare ∧ s.plan.kind = 1 ∧ s.plan.start = true ∧
      t.timerRun = true ∧ t.active = s.active ∧ t.gpioOut = s.gpioOut) ∨
    (t.active = false ∧ t.timerRun = false ∧ PinsWithin t.gpioOut s.gpioOut ∧
      (s.nextMove.1 = .reset ∨ ∃ w c, s.nextMove.1 = .command w ∧ decode (.cmd w) = .ok (.detach c))) := by
  obtain ⟨ms, d, w, rfl | ⟨-, hp⟩⟩ := step_cases h
  · exact .inl ⟨rfl, rfl, rfl⟩
  · cases hm : s.nextMove.1 with
    | command w =>
      rw [hm] at hp
      obtain ⟨u, hu, hr⟩ := phaseA_result _ w
      obtain rfl : u = t := by simpa using hu.symm.trans hp
      rcases hr with rfl | ⟨i, hd, hr⟩
      · exact .inl ⟨rfl, rfl, rfl⟩
      · rcases hr.outputs with ⟨ha, hr, hg⟩ | ⟨c, rfl, ha, hr, hg⟩
        · exact .inl ⟨ha, hr, hg⟩
        · exact .inr (.inr (.inr ⟨ha, hr, hg ▸ and_within _ _, .inr ⟨w, c, rfl, hd⟩⟩))
    | prepare =>
      rw [hm] at hp
      obtain ⟨start, hf, hstart⟩ := phaseB_frame hp
      cases start with
      | false => exact .inl ⟨hf.active, by simpa using hf.timerRun, hf.gpioOut⟩
      | true =>
        obtain ⟨hk, hs⟩ := hstart rfl
        exact .inr (.inr (.inl ⟨rfl, hk, hs, by simpa using hf.timerRun, hf.active, hf.gpioOut⟩))
    | tick =>
      rw [hm] at hp
      cases hp
      exact .inl ⟨by simp, by simp, by simp⟩
    | expire =>
      rw [hm] at hp
      exact .inr (.inl ⟨rfl, ms, d, w, hp⟩)
    | reset =>
      rw [hm] at hp
      cases hp
      exact .inr (.inr (.inr ⟨rfl, rfl, fun p hp => absurd hp (by simp [State.doReset, State.resetWith]), .inl rfl⟩))

theorem expiry_timerRun {s t : State} (h : s.expiry = .next t) : t.timerRun = s.timerRun := by
  rw [(expiry_frame h).timerRun, committed_eq s]

/-- An expiry step changes `active` only by a commit (R193, R198). -/
theorem expiry_active {s t : State} (h : s.expiry = .next t) (hne : t.active ≠ s.active) :
    s.phase = 1 ∧ s.switchPending = true ∧ t.switchPending = false := by
  have hf := expiry_frame h
  rw [hf.active] at hne
  by_cases h1 : s.phase = 1
  · rw [committed_of_phase_one h1] at hne hf
    rcases commit_cases s with ⟨hp, -⟩ | ⟨-, e⟩
    · exact ⟨h1, hp, hf.switchPending.trans (commit_switchPending s)⟩
    · exact absurd (by rw [e]) hne
  · exact absurd (by rw [committed_of_phase_ne h1]) hne

/-- Scheduling raises no pin (R209 to R211). -/
theorem schedule_within (s : State) (x : Entry) (prev : U16) : PinsWithin (s.schedule x prev).gpioOut s.gpioOut := by
  rcases schedule_cases s x prev with ⟨-, e⟩ | ⟨-, e⟩ <;> rw [e]
  · exact and_within _ _
  · exact fun _ => id

/-- A pin rises only at the period start, from the active buffer's set bitmap (R208). -/
theorem expiry_rises {s t : State} (h : s.expiry = .next t) {p : Nat} (hlow : s.gpioOut.getLsbD p = false)
    (hhigh : t.gpioOut.getLsbD p = true) :
    s.phase = 0 ∧ (s.activeBuf.set.get s.slot.toFin).getLsbD p = true := by
  rcases expiry_cases h with ⟨h0, rfl⟩ | ⟨-, m, k, x, prev, rfl⟩
  · refine ⟨h0, ?_⟩
    rw [State.allHigh, BitVec.getLsbD_or, hlow, Bool.false_or] at hhigh
    exact hhigh
  · have hfall := and_within _ _ p (schedule_within _ x prev p hhigh)
    rw [committed_eq s] at hfall
    exact absurd hfall (by simp [hlow])

/-- Settles O49: read off the moves that can change `active`. -/
theorem activeChangesOnlyAtCommit : Obligations.ActiveChangesOnlyAtCommit := by
  intro s t h hne
  rcases step_outputs h with hsame | ⟨hm, ms, d, w, he⟩ | ⟨-, -, -, -, ha, -⟩ | ⟨ha, hr, -, hm⟩
  · exact absurd hsame.active hne
  · exact .inl ⟨hm, expiry_active (s := { s with script := ms, draws := d, prepWait := w }) he hne⟩
  · exact absurd ha hne
  · exact .inr ⟨ha, hr, hm⟩

/-- Settles O53: read off the moves that can change the pins; of these only the expiry step can raise one. -/
theorem pinChanges : Obligations.PinChanges := by
  intro s t h
  rcases step_outputs h with hsame | ⟨hm, ms, d, w, he⟩ | ⟨-, -, -, -, -, hg⟩ | ⟨-, hr, hg, hm⟩
  · exact ⟨fun hne => absurd hsame.gpioOut hne,
      fun p hlow hhigh => absurd (hsame.gpioOut ▸ hhigh) (by simp [hlow])⟩
  · exact ⟨fun _ => .inl hm, fun p hlow hhigh => ⟨hm,
      expiry_rises (s := { s with script := ms, draws := d, prepWait := w }) he hlow hhigh⟩⟩
  · exact ⟨fun hne => absurd hg hne, fun p hlow hhigh => absurd (hg ▸ hhigh) (by simp [hlow])⟩
  · exact ⟨fun _ => .inr ⟨hr, hm⟩, fun p hlow hhigh => absurd (hg p hhigh) (by simp [hlow])⟩

/-- Settles O54: read off the moves that can change `timer_run`. -/
theorem timerStartsAndStops : Obligations.TimerStartsAndStops := by
  intro s t h hne
  rcases step_outputs h with hsame | ⟨-, ms, d, w, he⟩ | ⟨hm, hk, hs, hr, -⟩ | ⟨-, hr, -, hm⟩
  · exact absurd hsame.timerRun hne
  · exact absurd (expiry_timerRun (s := { s with script := ms, draws := d, prepWait := w }) he) hne
  · exact .inl ⟨hr, hm, hk, hs⟩
  · exact .inr ⟨hr, hm⟩

/-! ### The end of a period (R39, R211) -/

/-- Pins that are all in `asserted` still are when some of them fall. -/
theorem and_not_eq_zero {g a : Pins} (h : g &&& ~~~ a = 0) (m : Pins) : g &&& m &&& ~~~ a = 0 := by
  rw [BitVec.and_assoc, BitVec.and_comm m, ← BitVec.and_assoc, h]
  exact BitVec.zero_and

/-- Settles O32: only the end of the queue sets the phase to ALL_HIGH, and it clears every asserted pin. -/
theorem periodEndsLow : Obligations.PeriodEndsLow := by
  intro s t hg h hphase
  rcases expiry_cases h with ⟨-, rfl⟩ | ⟨-, m, k, x, prev, rfl⟩
  · exact absurd hphase (by simp [State.allHigh])
  · rcases schedule_cases (s.committed.fall m k) x prev with ⟨-, e⟩ | ⟨-, e⟩ <;> rw [e] at hphase ⊢
    · refine ⟨?_, rfl⟩
      rw [endOfQueue_gpioOut, committed_eq s]
      exact and_not_eq_zero hg _
    · exact absurd hphase (by simp)

/-! ### The non-active buffer (R46) -/

theorem activeBuf_setBuf_idle (s : State) (q : Buffer) : (s.setBuf (!s.active) q).activeBuf = s.activeBuf := by
  simp [State.activeBuf]

theorem minPulse_setBuf (s : State) (b : Bool) (q : Buffer) : (s.setBuf b q).minPulse = s.minPulse := by
  simp [State.minPulse]

theorem setBuf_schedule (s : State) (b : Bool) (q : Buffer) (x : Entry) (prev : U16) :
    (s.setBuf b q).schedule x prev = (s.schedule x prev).setBuf b q := by
  unfold State.schedule
  split <;> cases b <;> rfl

theorem setBuf_allHigh (s : State) (q : Buffer) :
    (s.setBuf (!s.active) q).allHigh = s.allHigh.setBuf (!s.active) q := by
  unfold State.allHigh
  simp only [activeBuf_setBuf_idle, minPulse_setBuf]
  simp only [setBuf_eq]
  rfl

theorem setBuf_drain {s t : State} (q : Buffer) (h : s.drain = .ok t) :
    (s.setBuf (!s.active) q).drain = .ok (t.setBuf (!s.active) q) := by
  obtain ⟨x, y, hx, hy, rfl⟩ := (drain_eq_ok_iff s t).1 h
  refine (drain_eq_ok_iff _ _).2 ⟨x, y, ?_, ?_, ?_⟩
  · rw [activeBuf_setBuf_idle, setBuf_cursor, hx]
  · rw [activeBuf_setBuf_idle, setBuf_cursor, hy]
  · rw [← setBuf_schedule]
    exact congrArg (fun u => State.schedule u y x.pw) (by rw [setBuf_eq, setBuf_eq])

theorem commit_of_not_pending {s : State} (h : ¬ s.switchPending = true) : s.commit = s := if_neg h

theorem setBuf_awaitCommit {s t : State} (q : Buffer) (hp : ¬ s.switchPending = true) (h : s.awaitCommit = .ok t) :
    (s.setBuf (!s.active) q).awaitCommit = .ok (t.setBuf (!s.active) q) := by
  have hcur : ∀ u : State, ∀ b, { u.setBuf b q with cursor := 0 } = State.setBuf { u with cursor := 0 } b q := by
    intro u b
    cases b <;> rfl
  obtain ⟨x, hx, hrun⟩ := (awaitCommit_eq_ok_iff s t).1 h
  rw [commit_of_not_pending hp] at hx hrun
  rw [awaitCommit_eq_ok_iff, commit_of_not_pending (by rwa [setBuf_switchPending]), activeBuf_setBuf_idle,
    minPulse_setBuf, hcur]
  refine ⟨x, hx, ?_⟩
  rcases hrun with ⟨hid, hsat, hd⟩ | ⟨hnot, rfl⟩
  · exact .inl ⟨hid, hsat, setBuf_drain (s := { s with cursor := 0 }) q hd⟩
  · exact .inr ⟨hnot, (setBuf_schedule _ _ q x _).symm⟩

/-- Settles O52: each arm reads the active buffer alone, and without a commit it stays the active one. -/
theorem sequencerIgnoresIdleBuffer : Obligations.SequencerIgnoresIdleBuffer := by
  intro s t q hnot h
  rcases expiry_eq_next h with ⟨h0, rfl⟩ | ⟨h1, ht⟩ | ⟨h2, ht⟩
  · rw [expiry_of_phase_zero (by rwa [setBuf_phase]), setBuf_allHigh]
  · rw [expiry_of_phase_one (by rwa [setBuf_phase]), setBuf_awaitCommit q (fun hp => hnot ⟨h1, hp⟩) ht]
    rfl
  · rw [expiry_of_phase_two (by rwa [setBuf_phase]), setBuf_drain q ht]
    rfl

/-! ### The states that no rule reaches (U5, U13) -/

theorem entryAt_of_none {s : State} {k : Nat} (h : s.activeBuf.e[k]? = none) :
    s.entryAt k = .error .cursorOutOfRange := by
  simp [State.entryAt, h]

theorem commit_activeBuf (s : State) : s.commit.activeBuf = s.buf (s.active != s.switchPending) := by
  rcases commit_cases s with ⟨hp, e⟩ | ⟨hp, e⟩ <;> rw [e, hp] <;> cases h : s.active <;>
    simp [State.activeBuf, State.buf, h]

theorem drain_outside {s : State} (h : s.activeBuf.e[s.cursor.toNat]? = none) :
    s.drain = .error .cursorOutOfRange := by
  simp only [State.drain, entryAt_of_none h]

theorem drain_past {s : State} {x : Entry} (hx : s.activeBuf.e[s.cursor.toNat]? = some x)
    (h : s.activeBuf.e[s.cursor.toNat + x.skip.toNat]? = none) : s.drain = .error .cursorOutOfRange := by
  simp only [State.drain, (entryAt_eq_ok_iff _ _ _).2 hx, entryAt_of_none h]

theorem awaitCommit_of_empty {s : State} (h : s.commit.activeBuf.e = []) :
    s.awaitCommit = .error .cursorOutOfRange := by
  have hnone : State.entryAt { s.commit with cursor := 0 } 0 = .error .cursorOutOfRange :=
    entryAt_of_none (show s.commit.activeBuf.e[0]? = none by simp [h])
  simp only [State.awaitCommit, hnone]

theorem incr_of_no_sentinel {s : State} (h : s.incrSource.rest = []) : s.incr = .error .noSentinel := by
  simp [State.incr, h]

theorem incr_of_bad_id {s : State} {x : Entry} (hr : s.incrSource.rest ≠ []) (hx : x ∈ s.incrSource.live)
    (hid : s.cfg.n ≤ x.id.toNat) : s.incr = .error .entryIdOutOfRange := by
  have hany : s.incrSource.live.any (fun x => decide (s.cfg.n ≤ x.id.toNat)) = true :=
    List.any_eq_true.2 ⟨x, hx, decide_eq_true hid⟩
  simp [State.incr, hr, hany]

/-- Settles O33: one lemma per state that stops. -/
theorem unreachableStatesStop : Obligations.UnreachableStatesStop := by
  refine ⟨fun s hc => ?config, fun s ms hv hs hrun hcnt hphase => ?phase, fun s ms hv hs hkind => ?kind,
    fun s h => ?outside, fun s x hx h => ?past, fun s h => ?empty, fun s h => ?sentinel, fun s x hr hx hid => ?id⟩
  case config => simp [step, hc]
  case phase =>
    rw [step_of_script hv hs ((due_eq_true_iff _).2 ⟨hrun, hcnt⟩)]
    simp [State.perform, State.expiry, decode, decodePhase, hphase]
  case kind =>
    rw [step_of_script hv hs ((busy_eq_true_iff _).2 (by simp [hkind]))]
    simp [State.perform, State.phaseB, decode, decodePlan, hkind]
  case outside => exact congrArg finish (drain_outside h)
  case past => exact congrArg finish (drain_past hx h)
  case empty => exact congrArg finish (awaitCommit_of_empty (by rw [commit_activeBuf, h]))
  case sentinel => exact congrArg finish (incr_of_no_sentinel h)
  case id => exact congrArg finish (incr_of_bad_id hr hx hid)

/-! ### The reset state (R53) -/

/-- Settles O37: the reset state of the reference configuration, field by field. -/
theorem resetStateValues : Obligations.ResetStateValues := by
  unfold Obligations.ResetStateValues
  decide

end Sys2Proof.Machine

/-! ## The invariant of a stopped machine (10_state.md R51, R53) -/

namespace Sys2Proof.Machine

theorem slotBits_of_free {c : Channel} (h : c.assigned = false) (k : Nat) : c.slotBits k = 0 := by
  simp [Channel.slotBits, h]

/-- Without an assigned channel every set bitmap is empty (R236). -/
theorem setBitmaps_of_free {cs : List Channel} (h : cs.any Channel.assigned = false) :
    setBitmaps cs = Vector.replicate 8 0 := by
  refine Vector.ext fun k hk => ?_
  rw [setBitmaps, Vector.getElem_ofFn, Vector.getElem_replicate]
  refine BitVec.eq_of_getLsbD_eq fun p _ => ?_
  rw [setBitmap_getLsbD, List.any_eq_false.2 fun c hc => ?_]
  · simp
  · rw [slotBits_of_free (Bool.eq_false_iff.2 (List.any_eq_false.1 h c hc))]
    simp

/-- Without an assigned channel a rebuild collects nothing (R161). -/
theorem assignedIds_of_free {s : State} (h : s.anyAssigned = false) : s.assignedIds = [] := by
  rw [State.assignedIds, List.map_eq_nil_iff, List.eq_nil_iff_forall_not_mem]
  intro x hx
  obtain ⟨k, c, hk, ha, -⟩ := (mem_collectFrom x 0 s.ch).1 hx
  exact List.any_eq_false.1 h c (List.mem_of_getElem? hk) ha

theorem period_emptyBuffer (n : Nat) (p : U16) : (emptyBuffer n p).period = p := by
  simp [Buffer.period, rest_emptyBuffer, List.replicate_succ, sentinel]

/-- Without an assigned channel the empty buffer mirrors the table (R48). -/
theorem mirrors_empty {s : State} (h : s.anyAssigned = false) (n : Nat) : s.Mirrors (emptyBuffer n s.periodWidth) := by
  refine ⟨?_, period_emptyBuffer n _, (setBitmaps_of_free h).symm, ?_⟩
  · rw [live_emptyBuffer, assignedIds_of_free h]
    exact .nil
  · rw [live_emptyBuffer]
    rfl

theorem planOk_of_idle {s : State} (hkind : s.plan.kind = 0) (hstart : s.plan.start = false)
    (hresync : s.plan.resync = false) : s.PlanOk := by
  have hbusy : s.busy ≠ true := fun h => (busy_eq_true_iff s).1 h hkind
  exact ⟨by simp [hstart], by simp [hresync], fun h => absurd h hbusy, fun h => absurd h hbusy, by simp [hkind]⟩

/-- A machine that is stopped, idle and without an assigned channel is invariant. -/
theorem inv_of_stopped {s : State} (hshape : s.Shape) (hpins : s.PinsOk) (hband : s.BandOk)
    (hkind : s.plan.kind = 0) (hstart : s.plan.start = false) (hresync : s.plan.resync = false)
    (hrun : s.timerRun = false) (hany : s.anyAssigned = false) (hlate : s.late = 0) (hstop : s.Stopped) : s.Inv := by
  obtain ⟨hpend, hphase, hcursor, -, hass, hact, hupd, -, hgpio, hq0, hq1⟩ := id hstop
  have hlatest : s.latest = emptyBuffer s.cfg.n s.periodWidth := by
    simp [State.latest, State.activeBuf, State.buf, hpend, hact, hq0]
  have hcomplete := complete_empty s.cfg s.periodWidth hband.1
  refine ⟨hshape, ⟨by simp [hphase], by simp [hkind]⟩, hpins, hband, hq0 ▸ hcomplete, hq1 ▸ hcomplete,
    planOk_of_idle hkind hstart hresync, ?timer, ?latest, ?sequencer⟩
  case timer => exact ⟨by simp [hrun], by simp [hany], fun _ => hstop⟩
  case latest =>
    intro _
    rw [hlatest]
    exact ⟨mirrors_empty hany _, fun _ => by simp [live_emptyBuffer]⟩
  case sequencer =>
    exact ⟨by simp [hgpio], by simp [fits, hass], by simp [hcursor], by simp [hphase], by omega,
      fun h => absurd hlate h⟩

theorem anyAssigned_resetWith (c : Config) : (State.resetWith c).anyAssigned = false :=
  List.any_eq_false.2 fun d hd => by
    rw [List.eq_of_mem_replicate hd]
    decide

/-- RESET keeps the moves to come (log 13) and leaves the invariant (R280). -/
theorem inv_resetWith {c : Config} (hc : c.valid = true) (ms : List Move) (d : Nat) (w : Option Nat) :
    State.Inv { State.resetWith c with script := ms, draws := d, prepWait := w } :=
  inv_of_stopped (shape_resetWith c hc) (pinsOk_resetWith c) (bandOk_resetWith hc) rfl rfl rfl rfl
    (anyAssigned_resetWith c) rfl ⟨rfl, rfl, rfl, rfl, rfl, rfl, rfl, rfl, rfl, rfl, rfl⟩

/-- Settles O43: the reset state is a stopped machine. -/
theorem resetSatisfiesInv : Obligations.ResetSatisfiesInv :=
  fun _ hc => inv_resetWith hc [] 0 none

end Sys2Proof.Machine

/-! ## The invariant under the tick and the expiry step (44_sequencer.md R206 to R211, R219) -/

namespace Sys2Proof.Machine

/-- Where the sequencer or the tick moved, the invariant needs only their own clauses again. -/
theorem inv_of_frame {s t : State} (h : s.Inv) (hf : SequencerFrame s t) (hphase : t.phase ≠ 3)
    (hstop : t.timerRun = false → t.Stopped) (hseq : t.SequencerOk) : t.Inv := by
  obtain ⟨⟨hcfg, hch, hq0, hq1, hact, hpend, hplan, -, -, -⟩, hper, hupd, hrun⟩ := hf
  cases s
  cases t
  simp only at hcfg hch hq0 hq1 hact hpend hplan hper hupd hrun
  subst hcfg hch hq0 hq1 hact hpend hplan hper hupd hrun
  obtain ⟨hshape, ⟨-, hkind⟩, hpins, hband, hc0, hc1, hplan, ⟨hany, hruns, -⟩, hlatest, -⟩ := h
  exact ⟨hshape, ⟨hphase, hkind⟩, hpins, hband, hc0, hc1, hplan, ⟨hany, hruns, hstop⟩, hlatest, hseq⟩

/-- A due expiry stays due, and is late by one tick more only where LAT_MAX allows it (R218, U3). -/
theorem inv_tick {s : State} (h : s.Inv) (he : s.tickEnabled = true) : s.tick.Inv := by
  obtain ⟨-, ⟨hphase, -⟩, -, -, -, -, -, ⟨-, -, hstop⟩, -, hlow, hfit, hcursor, hdrain, hlate, hdue⟩ := id h
  refine inv_of_frame h (sequencerFrame_tick s) (by simpa using hphase) (fun hrun => ?stopped) ?sequencer
  case stopped =>
    rw [tick_timerRun] at hrun
    simpa [State.Stopped, tick_timerCnt, hrun] using hstop hrun
  case sequencer =>
    refine ⟨by simpa using hlow, by simpa using hfit, by simpa using hcursor, ?_, ?_, ?_⟩
    · rw [(sameEngine_tick s).activeBuf]
      simpa using hdrain
    · rw [tick_late, tick_cfg]
      split
      · have hdis := (tickEnabled_eq_true_iff s).1 he
        rw [← due_eq_true_iff] at hdis
        have := hdis.resolve_left (not_not_intro ‹_›)
        omega
      · exact hlate
    · intro hne
      rw [tick_late] at hne
      have hd : s.due = true := by
        by_contra hd
        rw [if_neg hd] at hne
        exact hd (hdue hne)
      obtain ⟨hr, hc⟩ := (due_eq_true_iff s).1 hd
      exact (due_eq_true_iff _).2 ⟨by rw [tick_timerRun, hr], by simp [tick_timerCnt, hc]⟩

/-- At the start of a period, or of one that begins again, the cursor is at 0 and no expiry is late yet (R213, R215). -/
theorem sequencerOk_of_start {s : State} (hlow : s.gpioOut &&& ~~~ s.asserted = 0) (hfit : fits s.cfg.npins s.asserted)
    (hphase : s.phase ≠ 2) (hcursor : s.cursor.toNat ≤ s.cfg.n) (hlate : s.late = 0) : s.SequencerOk :=
  ⟨hlow, hfit, hcursor, fun h => absurd h hphase, by omega, fun h => absurd hlate h⟩

theorem fits_zero (n : Nat) : fits n 0 := by simp [fits]

theorem sequencerOk_allHigh {s : State} (h : s.SequencerOk) (hset : ∀ m ∈ s.activeBuf.set.toList, fits s.cfg.npins m) :
    s.allHigh.SequencerOk := by
  obtain ⟨hlow, hfit, hcursor, -, -, -⟩ := h
  have hm : fits s.cfg.npins (s.activeBuf.set[s.slot.toNat]'(s.slot.isLt)) := hset _ (by simp)
  refine sequencerOk_of_start ?_ (fits_or hfit hm) (by simp [State.allHigh]) hcursor rfl
  refine BitVec.eq_of_getLsbD_eq fun p hp => ?_
  have hlow' := congrArg (BitVec.getLsbD · p) hlow
  simp only [State.allHigh, BitVec.getLsbD_and, BitVec.getLsbD_or, BitVec.getLsbD_not] at hlow' ⊢
  grind

/-- Scheduling the entry under the cursor, a group head (R209, R210, R219). -/
theorem sequencerOk_schedule {s : State} {x : Entry} (prev : U16) (hq : s.activeBuf.Complete s.cfg)
    (hlow : s.gpioOut &&& ~~~ s.asserted = 0) (hfit : fits s.cfg.npins s.asserted) (hn : s.activeBuf.cnt ≤ s.cfg.n)
    (hk : s.cursor.toNat ≤ s.activeBuf.cnt) (hx : s.activeBuf.e[s.cursor.toNat]? = some x)
    (hhead : isHead s.cfg.join s.activeBuf.live s.cursor.toNat = true) : (s.schedule x prev).SequencerOk := by
  rcases schedule_cases s x prev with ⟨-, e⟩ | ⟨hid, e⟩ <;> rw [e]
  · refine sequencerOk_of_start ?_ (fits_zero _) (by simp) (Nat.le_trans hk hn) rfl
    rw [endOfQueue_gpioOut, hlow]
    exact BitVec.zero_and
  · exact ⟨hlow, hfit, Nat.le_trans hk hn, fun _ => ⟨lt_cnt_of_id_ne_end hq hk hx hid, hhead⟩, Nat.zero_le _,
      fun h => absurd rfl h⟩

/-- drain moves the cursor from an entry to a group head or to the sentinel (R210, R219). -/
theorem sequencerOk_drain {s t : State} (hq : s.activeBuf.Complete s.cfg) (hlow : s.gpioOut &&& ~~~ s.asserted = 0)
    (hfit : fits s.cfg.npins s.asserted) (hn : s.activeBuf.cnt ≤ s.cfg.n) (hn32 : s.cfg.n ≤ 32)
    (hk : s.cursor.toNat < s.activeBuf.cnt) (ht : s.drain = .ok t) : t.SequencerOk := by
  obtain ⟨x, y, hx, hy, rfl⟩ := (drain_eq_ok_iff s t).1 ht
  obtain ⟨-, -, -, -, -, -, hskips, -⟩ := id hq
  rw [e_getElem?_live _ _ hk] at hx
  obtain ⟨-, hle, hhead⟩ := skipsOk_spec _ _ hskips (show s.activeBuf.cnt ≤ 255 by omega) _ _ hx
  change _ ≤ s.activeBuf.cnt at hle
  have hto : (BitVec.ofNat 8 (s.cursor.toNat + x.skip.toNat)).toNat = s.cursor.toNat + x.skip.toNat := by
    rw [BitVec.toNat_ofNat]
    omega
  refine sequencerOk_schedule x.pw hq (and_not_eq_zero hlow _) hfit hn ?_ ?_ ?_ <;> simp only [hto]
  · exact hle
  · exact hy
  · exact hhead

/-- The commit point schedules the first entry of the committed buffer, or drains it at once (R209). -/
theorem sequencerOk_awaitCommit {s t : State} (hq : s.commit.activeBuf.Complete s.commit.cfg)
    (h : s.commit.SequencerOk) (hn : s.commit.activeBuf.cnt ≤ s.commit.cfg.n) (hn32 : s.commit.cfg.n ≤ 32)
    (ht : s.awaitCommit = .ok t) : t.SequencerOk := by
  obtain ⟨hlow, hfit, -⟩ := h
  obtain ⟨x, hx, ⟨hid, -, hd⟩ | ⟨-, rfl⟩⟩ := (awaitCommit_eq_ok_iff s t).1 ht
  · exact sequencerOk_drain (s := { s.commit with cursor := 0 }) hq hlow hfit hn hn32
      (lt_cnt_of_id_ne_end hq (Nat.zero_le _) hx hid) hd
  · exact sequencerOk_schedule (s := { s.commit with cursor := 0 }) s.minPulse hq hlow hfit hn (Nat.zero_le _) hx rfl

/-- A swap is pending only while no preparation is owed, and the buffer that the commit makes active is the one prepared
last (R48, R193). -/
theorem inv_commit {s : State} (h : s.Inv) (hphase : s.phase = 1) : s.commit.Inv := by
  rcases commit_cases s with ⟨hp, e⟩ | ⟨-, e⟩ <;> rw [e]
  · obtain ⟨hshape, hcodes, hpins, hband, hc0, hc1, ⟨hstart, hresync, hidle, hstopped, -⟩, ⟨hany, hruns, hstop⟩,
      hlatest, hlow, hfit, hcursor, -, hlate, hdue⟩ := h
    have hbusy : s.busy ≠ true := fun hb => by simp [(hidle hb).1] at hp
    have hlast : s.latest = s.idleBuf := if_pos hp
    rw [State.LatestOk, hlast] at hlatest
    refine ⟨hshape, hcodes, hpins, hband, hc0, hc1,
      ⟨hstart, hresync, fun hb => absurd hb hbusy, hstopped, fun hk => ?_⟩,
      ⟨hany, hruns, fun hr => absurd (hstop hr).1 (by simp [hp])⟩, hlatest,
      ⟨hlow, hfit, hcursor, fun h2 => absurd (hphase.symm.trans h2) (by decide),
        hlate, hdue⟩⟩
    exact absurd ((busy_eq_true_iff s).2 (by simp [show s.plan.kind = 2 from hk])) hbusy
  · exact h

theorem buf_complete {s : State} (h0 : s.q0.Complete s.cfg) (h1 : s.q1.Complete s.cfg) (b : Bool) :
    (s.buf b).Complete s.cfg := by
  cases b
  · exact h0
  · exact h1

/-- The active buffer of an invariant state: complete, with no more entries than channels. -/
theorem activeBuf_of_inv {s : State} (h : s.Inv) :
    s.activeBuf.Complete s.cfg ∧ s.activeBuf.cnt ≤ s.cfg.n ∧ s.cfg.n ≤ 32 := by
  obtain ⟨hshape, -, -, -, hc0, hc1, -⟩ := h
  have hq := buf_complete hc0 hc1 s.active
  exact ⟨hq, cnt_le_of_length hq (buf_length s _ hshape), (valid_bounds hshape.1).2.1⟩

theorem schedule_phase_ne (s : State) (x : Entry) (prev : U16) : (s.schedule x prev).phase ≠ 3 := by
  rcases schedule_cases s x prev with ⟨-, e⟩ | ⟨-, e⟩ <;> simp [e]

theorem expiry_phase_ne {s t : State} (h : s.expiry = .next t) : t.phase ≠ 3 := by
  rcases expiry_cases h with ⟨-, rfl⟩ | ⟨-, m, k, x, prev, rfl⟩
  · simp [State.allHigh]
  · exact schedule_phase_ne _ x prev

/-- A due expiry step keeps the invariant (R207 to R211). -/
theorem inv_expiry {s t : State} (h : s.Inv) (hdue : s.due = true) (ht : s.expiry = .next t) : t.Inv := by
  have hframe := expiry_frame ht
  have hstop : t.timerRun = false → t.Stopped := fun hr => by
    rw [expiry_timerRun ht, ((due_eq_true_iff s).1 hdue).1] at hr
    cases hr
  obtain ⟨-, -, -, -, -, -, -, -, -, hseq⟩ := id h
  obtain ⟨hq, hn, hn32⟩ := activeBuf_of_inv h
  rcases expiry_eq_next ht with ⟨h0, rfl⟩ | ⟨h1, hc⟩ | ⟨h2, hd⟩
  · rw [committed_of_phase_ne (by simp [h0])] at hframe
    obtain ⟨-, -, -, -, -, -, -, -, hset⟩ := hq
    exact inv_of_frame h hframe (expiry_phase_ne ht) hstop
      (sequencerOk_allHigh hseq (by simpa only [List.all_eq_true, decide_eq_true_eq] using hset))
  · rw [committed_of_phase_one h1] at hframe
    have hcommit := inv_commit h h1
    obtain ⟨hq, hn, hn32⟩ := activeBuf_of_inv hcommit
    obtain ⟨-, -, -, -, -, -, -, -, -, hseq⟩ := id hcommit
    exact inv_of_frame hcommit hframe (expiry_phase_ne ht) hstop (sequencerOk_awaitCommit hq hseq hn hn32 hc)
  · rw [committed_of_phase_ne (by simp [h2])] at hframe
    obtain ⟨hlow, hfit, -, hdrain, -⟩ := hseq
    exact inv_of_frame h hframe (expiry_phase_ne ht) hstop
      (sequencerOk_drain hq hlow hfit hn hn32 (hdrain h2).1 hd)

end Sys2Proof.Machine

/-! ## The invariant under the commands (40_channel_table_commands.md R121 to R131) -/

namespace Sys2Proof.Machine

/-! ### A table but for its widths

The ids, the set bitmaps and the clear bitmaps that a buffer mirrors (R48) are read off the pins and the masks. -/

/-- What a buffer's bitmaps read of a channel (R236, R237). -/
def Channel.place (c : Channel) : U8 × U8 := (c.pin, c.mask)

theorem collectFrom_ids_congr {cs ds : List Channel} (h : cs.map Channel.place = ds.map Channel.place) (i : Nat) :
    (collectFrom i cs).map Entry.id = (collectFrom i ds).map Entry.id := by
  induction cs generalizing ds i with
  | nil =>
    rw [List.map_eq_nil_iff.1 h.symm]
  | cons c cs ih =>
    cases ds with
    | nil => cases h
    | cons d ds =>
      rw [List.map_cons, List.map_cons, List.cons.injEq] at h
      obtain ⟨hcd, ht⟩ := h
      have ha : c.assigned = d.assigned := congrArg (fun p : U8 × U8 => p.1 != unassigned) hcd
      simp only [collectFrom, ha]
      split
      · simp only [List.map_cons, Channel.toEntry, ih ht]
      · exact ih ht (i + 1)

theorem setBitmap_eq_foldl_place (cs : List Channel) (k : Nat) :
    setBitmap cs k =
      (cs.map Channel.place).foldl (fun m p => m ||| Channel.slotBits ⟨p.1, 0, p.2⟩ k) 0 := by
  rw [List.foldl_map]
  rfl

theorem setBitmaps_congr {cs ds : List Channel} (h : cs.map Channel.place = ds.map Channel.place) :
    setBitmaps cs = setBitmaps ds := by
  simp only [setBitmaps, setBitmap_eq_foldl_place, h]

theorem clearOf_congr {s t : State} (h : t.ch.map Channel.place = s.ch.map Channel.place) : t.clearOf = s.clearOf := by
  funext id
  have hk := congrArg (fun l => (l[id.toNat]?).map Prod.fst) h
  simp only [List.getElem?_map, Option.map_map] at hk
  have hpin : ∀ u : State, (u.channel id).pin = ((u.ch[id.toNat]?).map (Prod.fst ∘ Channel.place)).getD unassigned := by
    intro u
    rw [State.channel, List.getD_eq_getElem?_getD]
    cases u.ch[id.toNat]? <;> rfl
  rw [State.clearOf, State.clearOf, hpin, hpin, hk]

/-- A buffer mirrors two tables alike that differ in their widths alone (R48). -/
theorem mirrors_congr {s t : State} (hcfg : t.cfg = s.cfg) (hp : t.periodWidth = s.periodWidth)
    (h : t.ch.map Channel.place = s.ch.map Channel.place) {q : Buffer} (hm : s.Mirrors q) : t.Mirrors q := by
  obtain ⟨hids, hper, hset, hann⟩ := hm
  refine ⟨?_, hper.trans hp.symm, hset.trans (setBitmaps_congr h).symm, ?_⟩
  · rwa [State.assignedIds, collectFrom_ids_congr h]
  · rwa [State.annotate, hcfg, clearOf_congr h]

/-- Writing a width leaves the places as they are. -/
theorem map_place_set_width {cs : List Channel} {i : Nat} {r : Channel} (h : cs[i]? = some r) (w : U16) :
    (cs.set i { r with pw := w }).map Channel.place = cs.map Channel.place := by
  obtain ⟨hi, rfl⟩ := List.getElem?_eq_some_iff.1 h
  rw [List.map_set, show Channel.place { cs[i] with pw := w } = cs[i].place from rfl,
    ← List.getElem_map Channel.place (h := by simpa using hi), List.set_getElem_self]

/-- A lookup after the write of one record. -/
theorem channel_set {s t : State} {c : U8} {r : Channel} (hc : c.toNat < s.ch.length) (ht : t.ch = s.ch.set c.toNat r)
    (id : U8) : t.channel id = if id = c then r else s.channel id := by
  rw [State.channel, State.channel, ht, List.getD_eq_getElem?_getD, List.getD_eq_getElem?_getD, List.getElem?_set]
  by_cases h : id = c
  · simp [h, hc]
  · rw [if_neg h, if_neg fun e => h (BitVec.eq_of_toNat_eq e.symm)]

/-! ### What the commands keep -/

theorem TableEdit.length {s : State} {cs : List Channel} {p : U16} (h : TableEdit s cs p) :
    cs.length = s.ch.length := by
  cases h <;> simp [State.withPeriod, State.reclamp]

/-- An idle invariant machine runs its timer iff a channel is assigned (R51). -/
theorem timerRun_eq_anyAssigned {s : State} (h : s.TimerOk) (hidle : s.busy = false) : s.timerRun = s.anyAssigned := by
  obtain ⟨hany, hruns, -⟩ := h
  exact Bool.eq_iff_iff.2 ⟨hany, hruns hidle⟩

/-- What an idle invariant machine has of its plan. -/
theorem plan_of_idle {s : State} (h : s.PlanOk) (hidle : s.busy = false) :
    s.plan.kind = 0 ∧ s.plan.start = false ∧ s.plan.resync = false := by
  obtain ⟨hstart, hresync, -⟩ := h
  have hk : s.plan.kind = 0 := by simpa [State.busy] using hidle
  refine ⟨hk, Bool.eq_false_iff.2 fun hs => ?_, Bool.eq_false_iff.2 fun hs => ?_⟩
  · have := (hstart hs).1
    simp [hk] at this
  · have := (hresync hs).1
    simp [hk] at this

/-- A rebuild chosen on an edited table (R122). -/
theorem inv_rebuilds {s : State} (h : s.Inv) {cs : List Channel} {p : U16} {start resync : Bool}
    (r : U32) (hedit : TableEdit s cs p) (hstart : start = true → s.timerRun = false)
    (hresync : resync = true → s.timerRun = true) (hper : s.timerRun = false → p = s.periodWidth)
    (hany : cs.any Channel.assigned = true) (hruns : s.timerRun = false → start = true) :
    State.Inv { s with
      ch := cs, periodWidth := p, pendingUpdates := 0, switchPending := false
      plan := ⟨1, start, resync, false, 0, 0⟩, rsp := r } := by
  obtain ⟨⟨hv, hl, hl0, hl1⟩, ⟨hphase, -⟩, hpins, hband, hc0, hc1, -, ⟨-, -, hstop⟩, -, hseq⟩ := h
  refine ⟨⟨hv, hedit.length.trans hl, hl0, hl1⟩, ⟨hphase, by simp⟩, ?pins, hedit.band hband, hc0, hc1, ?plan, ?timer,
    fun hb => absurd hb (by simp [State.busy]), hseq⟩
  case pins => exact hedit.pinsOk (t := { s with ch := cs, periodWidth := p }) rfl hpins
  case plan =>
    exact ⟨fun hs => ⟨rfl, hstart hs⟩, fun hs => ⟨rfl, hresync hs⟩, fun _ => ⟨rfl, rfl⟩,
      fun _ hr => ⟨rfl, hruns hr, hany⟩, fun hk => absurd hk (by simp)⟩
  case timer =>
    refine ⟨fun _ => hany, fun hb => absurd hb (by simp [State.busy]), fun hr => ?_⟩
    obtain ⟨-, hs1, hs2, hs3, hs4, hs5, -, hs6, hs7, hs8, hs9⟩ := hstop hr
    rw [← hper hr] at hs8 hs9
    exact ⟨rfl, hs1, hs2, hs3, hs4, hs5, rfl, hs6, hs7, hs8, hs9⟩

theorem timerOk_of_assigned {s : State} (hrun : s.timerRun = true) (hany : s.anyAssigned = true) : s.TimerOk :=
  ⟨fun _ => hany, fun _ _ => hrun, fun hr => Bool.noConfusion (hrun.symm.trans hr)⟩

/-- After SET_PULSE the buffer prepared last still mirrors the table but for the widths, and only the entry of that
channel can differ from the table in its width (R126, R134). -/
theorem mirrors_of_width {s t : State} (h : s.Inv) (hidle : s.busy = false) {c : U8} {old : Channel} {w : U16}
    (hold : s.ch[c.toNat]? = some old) (hcfg : t.cfg = s.cfg) (hper : t.periodWidth = s.periodWidth)
    (hch : t.ch = s.ch.set c.toNat { old with pw := w }) :
    t.Mirrors s.latest ∧
      (s.pendingUpdates = 0 → ∀ x ∈ s.latest.live, x.id ≠ c → x.pw = (t.channel x.id).pw) := by
  obtain ⟨-, -, -, -, -, -, -, -, hlatest, -⟩ := h
  obtain ⟨hm, hw⟩ := hlatest hidle
  refine ⟨mirrors_congr hcfg hper (by rw [hch, map_place_set_width hold]) hm, fun hp x hx hne => ?_⟩
  rw [channel_set (List.getElem?_eq_some_iff.1 hold).1 hch, if_neg hne]
  exact hw hp x hx

/-- A chosen incremental update has the buffer prepared last as its source (R126, R176). -/
theorem inv_updates {s : State} (h : s.Inv) (hidle : s.busy = false) {c : U8} {old : Channel} (v : U16) (r : U32)
    (hold : s.ch[c.toNat]? = some old) (ha : old.assigned = true) (hnone : s.pendingUpdates = 0) :
    State.Inv { s with
      ch := s.ch.set c.toNat { old with pw := s.clampw v }, switchPending := false
      plan := ⟨2, false, false, s.switchPending, c, s.clampw v⟩, rsp := r } := by
  obtain ⟨⟨hv, hl, hl0, hl1⟩, ⟨hphase, -⟩, hpins, hband, hc0, hc1, -, htimer, -, hseq⟩ := id h
  have hedit : TableEdit s _ _ := .width v hold ha
  have hlt := (List.getElem?_eq_some_iff.1 hold).1
  have hany : (s.ch.set c.toNat { old with pw := s.clampw v }).any Channel.assigned = true :=
    any_assigned_of_mem (mem_set_of_getElem? hold _) ha
  have hrun : s.timerRun = true :=
    (timerRun_eq_anyAssigned htimer hidle).trans (any_assigned_of_mem (List.mem_of_getElem? hold) ha)
  have hchan : State.channel { s with ch := s.ch.set c.toNat { old with pw := s.clampw v } } c =
      { old with pw := s.clampw v } := by rw [channel_set hlt rfl, if_pos rfl]
  refine ⟨⟨hv, hedit.length.trans hl, hl0, hl1⟩, ⟨hphase, by simp⟩, ?pins, hedit.band hband, hc0, hc1, ?plan,
    timerOk_of_assigned hrun hany, fun hb => absurd hb (by simp [State.busy]), hseq⟩
  case pins => exact hedit.pinsOk (t := { s with ch := _ }) rfl hpins
  case plan =>
    obtain ⟨hm, hw⟩ := mirrors_of_width (t := { s with ch := s.ch.set c.toNat { old with pw := s.clampw v } })
      h hidle hold rfl rfl rfl
    refine ⟨by simp, by simp, fun _ => ⟨rfl, hnone⟩, fun _ hr => Bool.noConfusion (hrun.symm.trans hr), fun _ =>
      ⟨(validCh_eq_true_iff _ c).2 ⟨_, by simpa [← hl] using hlt, List.getElem?_set_self hlt, (assigned_iff old).1 ha⟩,
        (congrArg Channel.pw hchan).symm, hm, hw hnone⟩⟩

/-- A buffered update leaves the last buffer behind the table in its widths alone (R134). -/
theorem inv_buffers {s : State} (h : s.Inv) (hidle : s.busy = false) {c : U8} {old : Channel} (v : U16) (r : U32)
    (hold : s.ch[c.toNat]? = some old) (ha : old.assigned = true) :
    State.Inv { s with
      ch := s.ch.set c.toNat { old with pw := s.clampw v }, pendingUpdates := satinc8 s.pendingUpdates, rsp := r } := by
  obtain ⟨⟨hv, hl, hl0, hl1⟩, hcodes, hpins, hband, hc0, hc1, hplan, htimer, -, hseq⟩ := id h
  have hedit : TableEdit s _ _ := .width v hold ha
  have hany : (s.ch.set c.toNat { old with pw := s.clampw v }).any Channel.assigned = true :=
    any_assigned_of_mem (mem_set_of_getElem? hold _) ha
  have hrun : s.timerRun = true :=
    (timerRun_eq_anyAssigned htimer hidle).trans (any_assigned_of_mem (List.mem_of_getElem? hold) ha)
  obtain ⟨hkind, hstart, hresync⟩ := plan_of_idle hplan hidle
  refine ⟨⟨hv, hedit.length.trans hl, hl0, hl1⟩, hcodes, ?pins, hedit.band hband, hc0, hc1,
    planOk_of_idle hkind hstart hresync, timerOk_of_assigned hrun hany, fun _ => ⟨?latest, fun hp => ?_⟩, hseq⟩
  case pins => exact hedit.pinsOk (t := { s with ch := _ }) rfl hpins
  case latest =>
    exact (mirrors_of_width (t := { s with ch := s.ch.set c.toNat { old with pw := s.clampw v } })
      h hidle hold rfl rfl rfl).1
  exact absurd hp (satinc8_ne_zero _)

/-- The stopping DETACH leaves a stopped machine: every high pin was asserted (R39, R214). -/
theorem inv_stops {s : State} (h : s.Inv) (hidle : s.busy = false) {c : U8} {old : Channel} (r : U32)
    (hold : s.ch[c.toNat]? = some old)
    (hfree : (s.ch.set c.toNat { old with pin := unassigned }).any Channel.assigned = false) :
    State.Inv { State.stop { s with ch := s.ch.set c.toNat { old with pin := unassigned } } with rsp := r } := by
  obtain ⟨⟨hv, hl, -, -⟩, -, hpins, hband, -, -, hplan, -, -, hlow, -⟩ := h
  have hedit : TableEdit s _ _ := .free hold
  obtain ⟨hkind, hstart, hresync⟩ := plan_of_idle hplan hidle
  exact inv_of_stopped ⟨hv, hedit.length.trans hl, List.length_replicate, List.length_replicate⟩
    (hedit.pinsOk (t := { s with ch := _ }) rfl hpins) (hedit.band hband) hkind hstart hresync rfl hfree rfl
    ⟨rfl, rfl, rfl, rfl, rfl, rfl, rfl, rfl, hlow, rfl, rfl⟩

/-- A new period of a stopped machine leaves it stopped, with empty buffers of the new period (R130). -/
theorem inv_empties {s : State} (h : s.Inv) (hidle : s.busy = false) {p : U16} (r : U32)
    (hp : 2 * s.cfg.minPulse ≤ p.toNat) (hrun : s.timerRun = false) :
    State.Inv { (s.withPeriod p).emptyBuffers p with rsp := r } := by
  obtain ⟨⟨hv, hl, -, -⟩, -, hpins, hband, -, -, hplan, htimer, -, -, -, -, -, -, hdue⟩ := h
  have hedit : TableEdit s _ p := .period hp
  have hfree : (s.withPeriod p).ch.any Channel.assigned = false := by
    rw [any_assigned_eq, withPeriod_pins, ← any_assigned_eq]
    exact (timerRun_eq_anyAssigned htimer hidle).symm.trans hrun
  have hlate : s.late = 0 := by
    by_contra hne
    simp [((due_eq_true_iff s).1 (hdue hne)).1] at hrun
  obtain ⟨-, -, hstop⟩ := htimer
  obtain ⟨hs1, hs2, hs3, hs4, hs5, hs6, hs7, hs8, hs9, -, -⟩ := hstop hrun
  obtain ⟨hkind, hstart, hresync⟩ := plan_of_idle hplan hidle
  exact inv_of_stopped ⟨hv, hedit.length.trans hl, List.length_replicate, List.length_replicate⟩
    (hedit.pinsOk (t := s.withPeriod p) rfl hpins) (hedit.band hband) hkind hstart hresync hrun hfree hlate
    ⟨hs1, hs2, hs3, hs4, hs5, hs6, hs7, hs8, hs9, rfl, rfl⟩

/-- FORCE_RESYNC begins the period again (R131, R215). -/
theorem inv_restarts {s : State} (h : s.Inv) (r : U32) (hrun : s.timerRun = true) :
    State.Inv { s.restart with rsp := r } := by
  obtain ⟨-, -, -, -, -, -, -, -, -, hlow, hfit, -⟩ := id h
  exact inv_of_frame h ⟨by constructor <;> rfl, rfl, rfl, rfl⟩ (by simp)
    (fun hr => Bool.noConfusion (hrun.symm.trans hr))
    (sequencerOk_of_start hlow hfit (by simp) (by simp) rfl)

/-- Every command keeps the invariant of an idle machine. -/
theorem CommandResult.inv {s t : State} {i : Instr} (h : CommandResult s i t) (hs : s.Inv) (hidle : s.busy = false) :
    t.Inv := by
  cases h with
  | answers => exact hs
  | rebuilds _ r hedit hstart hresync hper hlive =>
    obtain ⟨-, -, -, -, -, -, -, htimer, -⟩ := id hs
    obtain ⟨hany, hruns⟩ := hlive (timerRun_eq_anyAssigned htimer hidle)
    exact inv_rebuilds hs r hedit hstart hresync hper hany hruns
  | updates _ v r hold ha hnone => exact inv_updates hs hidle v r hold ha hnone
  | buffers _ v r hold ha => exact inv_buffers hs hidle v r hold ha
  | stops r hold hfree => exact inv_stops hs hidle r hold hfree
  | empties _ r hp hrun => exact inv_empties hs hidle r hp hrun
  | restarts _ r hrun => exact inv_restarts hs r hrun

theorem inv_phaseA {s t : State} {w : U32} (h : s.Inv) (hidle : s.busy = false) (ht : s.phaseA w = .next t) :
    t.Inv := by
  obtain ⟨u, hu, hr⟩ := phaseA_result s w
  obtain rfl : u = t := by simpa using hu.symm.trans ht
  rcases hr with rfl | ⟨i, -, hr⟩
  · exact h
  · exact hr.inv h hidle

end Sys2Proof.Machine

/-! ## The invariant under the preparations (41_queue_builder.md R160, 42_incremental_updater.md R175) -/

namespace Sys2Proof.Machine

/-- `t` is `s` with the buffer `q` prepared and published, and no preparation owed (R160, R175, R192). -/
structure Prepared (s t : State) (q : Buffer) : Prop where
  cfg : t.cfg = s.cfg
  ch : t.ch = s.ch
  periodWidth : t.periodWidth = s.periodWidth
  active : t.active = s.active
  activeBuf : t.activeBuf = s.activeBuf
  idleBuf : t.idleBuf = q
  switchPending : t.switchPending = true
  plan : t.plan = Plan.idle

/-- A property of both buffers, by number and by role. -/
theorem forall_buffers_iff (s : State) (P : Buffer → Prop) : P s.q0 ∧ P s.q1 ↔ P s.activeBuf ∧ P s.idleBuf := by
  cases h : s.active <;> simp [State.activeBuf, State.idleBuf, State.buf, h, and_comm]

/-- A preparation that leaves a complete buffer of the current table, and the timer running, keeps the invariant. -/
theorem inv_of_prepared {s t : State} {q : Buffer} (h : s.Inv) (hp : Prepared s t q)
    (hlen : q.e.length = s.cfg.n + 1) (hq : q.Complete s.cfg) (hm : s.Mirrors q)
    (hw : ∀ x ∈ q.live, x.pw = (s.channel x.id).pw) (hphase : t.phase ≠ 3) (hrun : t.timerRun = true)
    (hany : s.anyAssigned = true) (hseq : t.SequencerOk) : t.Inv := by
  obtain ⟨⟨hv, hl, hl0, hl1⟩, -, hpins, hband, hc0, hc1, -⟩ := h
  obtain ⟨hcfg, hch, hper, -, hact, hidle, hpend, hplan⟩ := hp
  have hlast : t.latest = q := (if_pos hpend).trans hidle
  obtain ⟨hl0, hl1⟩ : t.q0.e.length = s.cfg.n + 1 ∧ t.q1.e.length = s.cfg.n + 1 := by
    rw [forall_buffers_iff t (fun b => b.e.length = s.cfg.n + 1), hact, hidle]
    exact ⟨((forall_buffers_iff s fun b => b.e.length = s.cfg.n + 1).1 ⟨hl0, hl1⟩).1, hlen⟩
  obtain ⟨hc0, hc1⟩ : t.q0.Complete t.cfg ∧ t.q1.Complete t.cfg := by
    rw [forall_buffers_iff t (fun b => b.Complete t.cfg), hact, hidle, hcfg]
    exact ⟨((forall_buffers_iff s fun b => b.Complete s.cfg).1 ⟨hc0, hc1⟩).1, hq⟩
  have hkeep : TableEdit s t.ch t.periodWidth := by
    rw [hch, hper]
    exact .keep
  refine ⟨by rw [State.Shape, hcfg, hch]; exact ⟨hv, hl, hl0, hl1⟩, ⟨hphase, by rw [hplan]; decide⟩,
    hkeep.pinsOk hcfg hpins, by rw [State.BandOk, hcfg]; exact hkeep.band hband, hc0, hc1,
    planOk_of_idle (by rw [hplan]; rfl) (by rw [hplan]; rfl) (by rw [hplan]; rfl),
    timerOk_of_assigned hrun (by rwa [State.anyAssigned, hch]), fun _ => ?latest, hseq⟩
  case latest =>
    rw [hlast]
    refine ⟨mirrors_congr hcfg hper (by rw [hch]) hm, fun _ x hx => ?_⟩
    rw [State.channel, hch]
    exact hw x hx

theorem prepared_setBuf (s : State) (q : Buffer) :
    (s.setBuf (!s.active) q).activeBuf = s.activeBuf ∧ (s.setBuf (!s.active) q).idleBuf = q := by
  refine ⟨activeBuf_setBuf_idle s q, ?_⟩
  rw [State.idleBuf, setBuf_active, buf_setBuf_same]

theorem prepared_rebuild (s : State) (a b : Bool) : Prepared s (s.rebuild a b) (s.rebuiltBuffer s.idleBuf) := by
  obtain ⟨hact, hidle⟩ := prepared_setBuf s (s.rebuiltBuffer s.idleBuf)
  rw [rebuild_eq]
  exact ⟨setBuf_cfg .., setBuf_ch .., setBuf_periodWidth .., setBuf_active .., hact, hidle, rfl, rfl⟩

/-- While a preparation is owed some channel is assigned, and a timer that does not run is started by it (R51, R122). -/
theorem owed_facts {s : State} (h : s.Inv) (hbusy : s.busy = true) :
    s.anyAssigned = true ∧ (s.timerRun = true ∨ (s.plan.kind = 1 ∧ s.plan.start = true)) := by
  obtain ⟨-, -, -, -, -, -, ⟨-, -, -, hstopped, -⟩, ⟨hany, -, -⟩, -⟩ := h
  cases hr : s.timerRun with
  | true => exact ⟨hany hr, .inl rfl⟩
  | false =>
    obtain ⟨hk, hs, ha⟩ := hstopped hbusy hr
    exact ⟨ha, .inr ⟨hk, hs⟩⟩

/-- The sequencer does not see the non-active buffer (R46). -/
theorem sequencerOk_setBuf {s : State} (h : s.SequencerOk) (q : Buffer) :
    (s.setBuf (!s.active) q).SequencerOk := by
  simpa only [State.SequencerOk, activeBuf_setBuf_idle, State.due, setBuf_cfg, setBuf_gpioOut, setBuf_asserted,
    setBuf_cursor, setBuf_phase, setBuf_late, setBuf_timerRun, setBuf_timerCnt] using h

/-- A rebuild leaves the sequencer where it was, or at the start of a period (R160, R213, R215). -/
theorem sequencerOk_rebuild {s : State} (hseq : s.SequencerOk) (hstop : s.timerRun = false → s.Stopped) {a : Bool}
    (ha : a = true → s.timerRun = false) (b : Bool) : (s.rebuild a b).SequencerOk := by
  rw [rebuild_eq]
  cases a with
  | true =>
    obtain ⟨-, -, -, -, -, -, -, -, hlow, -⟩ := hstop (ha rfl)
    exact sequencerOk_of_start (by simp [hlow]) (fits_zero _) (by simp) (by simp) rfl
  | false =>
    cases b with
    | true =>
      obtain ⟨hlow, hfit, -⟩ := hseq
      exact sequencerOk_of_start (by simpa using hlow) (by simpa using hfit) (by simp) (by simp) rfl
    | false =>
      have h := sequencerOk_setBuf hseq (s.rebuiltBuffer s.idleBuf)
      rw [setBuf_eq] at h ⊢
      exact h

theorem rebuild_phase_ne {s : State} (h : s.phase ≠ 3) (a b : Bool) : (s.rebuild a b).phase ≠ 3 := by
  rw [rebuild_eq]
  change (if (a || b) = true then 0 else s.phase) ≠ 3
  split
  · decide
  · exact h

/-- PREP.REBUILD keeps the invariant (R160, R165). -/
theorem inv_rebuild {s : State} (h : s.Inv) (hkind : s.plan.kind = 1) :
    (s.rebuild s.plan.start s.plan.resync).Inv := by
  obtain ⟨hshape, ⟨hphase, -⟩, hpins, hband, -, -, ⟨hstart, -⟩, ⟨-, -, hstop⟩, -, hseq⟩ := id h
  obtain ⟨hany, hruns⟩ := owed_facts h ((busy_eq_true_iff s).2 (by simp [hkind]))
  have hrun : (s.rebuild s.plan.start s.plan.resync).timerRun = true := by
    rw [(prepareFrame_rebuild s _ _).timerRun]
    rcases hruns with hr | ⟨-, hs⟩
    · rw [hr, Bool.true_or]
    · rw [hs, Bool.or_true]
  exact inv_of_prepared h (prepared_rebuild s _ _) (rebuilt_length hshape _ (buf_length s _ hshape))
    (rebuilt_complete hshape hpins hband _) (rebuilt_mirrors hshape _) (rebuilt_widths hshape _)
    (rebuild_phase_ne hphase _ _) hrun hany
    (sequencerOk_rebuild hseq hstop (fun hs => (hstart hs).2) _)

theorem incrSource_complete {s : State} (h : s.Inv) : s.incrSource.Complete s.cfg := by
  obtain ⟨-, -, -, -, hc0, hc1, -⟩ := h
  unfold State.incrSource
  split <;> exact buf_complete hc0 hc1 _

theorem incrSource_length {s : State} (h : s.Shape) : s.incrSource.e.length = s.cfg.n + 1 := by
  unfold State.incrSource
  split <;> exact buf_length s _ h

/-- PREP.INCR keeps the invariant: its source has the entry of the channel, so that it does not fall back (R175 to
R183). -/
theorem inv_incr {s t : State} (h : s.Inv) (hkind : s.plan.kind = 2) (ht : s.incr = .ok t) : t.Inv := by
  obtain ⟨hshape, ⟨hphase, -⟩, hpins, hband, -, -, ⟨-, -, -, -, hincr⟩, -, -, hseq⟩ := id h
  obtain ⟨hvalid, hpw, hm, hw⟩ := hincr hkind
  obtain ⟨hany, hruns⟩ := owed_facts h ((busy_eq_true_iff s).2 (by simp [hkind]))
  have hrun : s.timerRun = true := hruns.resolve_right fun hr => by simp [hkind] at hr
  obtain ⟨es, hes, hq, hm', hw', hlen⟩ := updated_facts hshape hpins hband (incrSource_complete h) hm hvalid hw
  rw [← hpw] at hes
  obtain ⟨-, -, ⟨hnone, -⟩ | ⟨es', hes', rfl⟩⟩ := incr_eq_ok s t ht
  · rw [hes] at hnone
    cases hnone
  · obtain rfl : es = es' := Option.some.inj (hes.symm.trans hes')
    obtain ⟨hact, hidle⟩ := prepared_setBuf s ⟨s.annotate es ++ s.incrSource.rest, s.incrSource.set⟩
    exact inv_of_prepared h
      ⟨setBuf_cfg .., setBuf_ch .., setBuf_periodWidth .., setBuf_active .., hact, hidle, rfl, rfl⟩
      (hlen.trans (incrSource_length hshape)) hq hm' hw' (by simpa using hphase) (by simpa using hrun) hany
      (sequencerOk_setBuf hseq _)

end Sys2Proof.Machine

/-! ## Every step keeps the invariant, and none stops (10_state.md R46 to R52) -/

namespace Sys2Proof.Machine

/-- Every enabled move keeps the invariant. -/
theorem perform_keeps_inv {s t : State} {m : Move} (hv : s.cfg.valid = true) (h : s.Inv) (he : s.enabled m = true)
    (hp : s.perform m = .next t) : t.Inv := by
  cases m with
  | command w => exact inv_phaseA h (by simpa [State.enabled] using he) hp
  | prepare =>
    rcases phaseB_cases hp with ⟨hk, rfl⟩ | ⟨hk, ht⟩
    · exact inv_rebuild h hk
    · exact inv_incr h hk ht
  | tick =>
    cases hp
    exact inv_tick h he
  | expire => exact inv_expiry h he hp
  | reset =>
    cases hp
    exact inv_resetWith hv s.script s.draws none

/-- Settles O44: the model's own fields are not in the invariant, and each agent's move keeps it. -/
theorem stepKeepsInv : Obligations.StepKeepsInv :=
  fun _ _ hs h => step_keeps (P := State.Inv) (fun _ _ _ _ hs => hs) (fun _ _ _ => perform_keeps_inv) hs h

/-- The expiry step of an invariant state goes (R216). -/
theorem expiry_goes_of_inv {s : State} (h : s.Inv) : ∃ t, s.expiry = .next t := by
  obtain ⟨-, ⟨hphase, -⟩, -, -, -, -, -, -, -, -, -, -, hdrain, -⟩ := id h
  rcases code_cases s.phase hphase with h0 | h1 | h2
  · exact ⟨_, expiry_of_phase_zero h0⟩
  · obtain ⟨hq, hn, hn32⟩ := activeBuf_of_inv (inv_commit h h1)
    obtain ⟨t, ht, -⟩ := awaitCommit_goes (s := s) (by rwa [commit_cfg] at hq) (by omega)
    exact ⟨t, (expiry_of_phase_one h1).trans (by rw [ht, finish])⟩
  · obtain ⟨hq, hn, hn32⟩ := activeBuf_of_inv h
    obtain ⟨t, ht, -⟩ := drain_goes hq (by omega) (hdrain h2).1
    exact ⟨t, (expiry_of_phase_two h2).trans (by rw [ht, finish])⟩

/-- Every enabled move of an invariant state goes (R136, R216, U5). -/
theorem perform_goes {s : State} {m : Move} (h : s.Inv) (he : s.enabled m = true) : ∃ t, s.perform m = .next t := by
  cases m with
  | command w =>
    obtain ⟨t, ht, -⟩ := phaseA_result s w
    exact ⟨t, ht⟩
  | prepare =>
    obtain ⟨t, ht, -⟩ := (owes_of_inv h ((busy_eq_true_iff s).1 he)).phaseB_idle
    exact ⟨t, ht⟩
  | tick => exact ⟨_, rfl⟩
  | expire => exact expiry_goes_of_inv h
  | reset => exact ⟨_, rfl⟩

theorem step_goes {s : State} (h : s.Inv) : ∃ t, step s = .next t := by
  obtain ⟨⟨hv, -⟩, -⟩ := id h
  obtain ⟨ms, d, w, hu⟩ := nextMove_eq s
  have hown : State.Inv { s with script := ms, draws := d, prepWait := w } := h
  rw [step_eq s hv, hu]
  by_cases he : State.enabled { s with script := ms, draws := d, prepWait := w } s.nextMove.1 = true
  · rw [offer_of_enabled he]
    exact perform_goes hown he
  · exact ⟨_, offer_of_not_enabled he⟩

/-- A run from an invariant state does not stop and ends in one, however long it is. -/
theorem run_of_inv {s : State} (h : s.Inv) (k : Nat) :
    ∃ t : State, Host.Core.run Sys2Proof.core k s = .next t ∧ t.Inv := by
  induction k generalizing s with
  | zero => exact ⟨s, rfl, h⟩
  | succ k ih =>
    obtain ⟨r, hr⟩ := step_goes h
    obtain ⟨t, ht, hinv⟩ := ih (stepKeepsInv s r h hr)
    exact ⟨t, (run_succ_of_step (M := Sys2Proof.core) hr).trans ht, hinv⟩

/-- Settles O46: the reset state is invariant under every schedule, an invariant state steps, and the step keeps the
invariant. -/
theorem everyRunIsSafe : Obligations.EveryRunIsSafe :=
  fun _ ms d k w hc => run_of_inv (inv_resetWith hc ms d w) k

end Sys2Proof.Machine

/-! ## Who owns which state (20_memory.md R66, R73, R76)

What the command engine writes and the sequencer does not read, what each of them leaves alone, and that a preparation and
a step of the sequencer or the timebase may be taken in either order. -/

namespace Sys2Proof.Machine

/-! ### The sequencer does not read the command engine's state (R73) -/

/-- `s` with other values in everything that the command engine owns but the buffers, and in the flag it shares with the
sequencer (R66, R69, R73). -/
def State.withEngine (s : State) (cs : List Channel) (p : U16) (u : U8) (pending : Bool) (pl : Plan) (r : U32) : State :=
  { s with ch := cs, periodWidth := p, pendingUpdates := u, switchPending := pending, plan := pl, rsp := r }

section
variable (cs : List Channel) (p : U16) (u : U8) (pending : Bool) (pl : Plan) (r : U32)

theorem withEngine_schedule (s : State) (x : Entry) (prev : U16) :
    (s.withEngine cs p u pending pl r).schedule x prev = (s.schedule x prev).withEngine cs p u pending pl r := by
  unfold State.schedule
  split <;> rfl

/-- drain reads the active buffer, the cursor and the pins. -/
theorem withEngine_drain {s t : State} (h : s.drain = .ok t) :
    (s.withEngine cs p u pending pl r).drain = .ok (t.withEngine cs p u pending pl r) := by
  obtain ⟨x, y, hx, hy, rfl⟩ := (drain_eq_ok_iff s t).1 h
  exact (drain_eq_ok_iff _ _).2 ⟨x, y, hx, hy, (withEngine_schedule cs p u pending pl r _ y x.pw).symm⟩

/-- The commit reads the flag, which therefore stays, and nothing else of the engine's. -/
theorem withEngine_commit (s : State) :
    (s.withEngine cs p u s.switchPending pl r).commit = s.commit.withEngine cs p u false pl r := by
  rcases commit_cases s with ⟨hp, e⟩ | ⟨hp, e⟩ <;> rw [e, hp]
  · rfl
  · exact commit_of_not_pending (by simp [State.withEngine])

theorem withEngine_awaitCommit {s t : State} (h : s.awaitCommit = .ok t) :
    (s.withEngine cs p u s.switchPending pl r).awaitCommit = .ok (t.withEngine cs p u false pl r) := by
  obtain ⟨x, hx, hrun⟩ := (awaitCommit_eq_ok_iff s t).1 h
  rw [awaitCommit_eq_ok_iff, withEngine_commit]
  refine ⟨x, hx, ?_⟩
  rcases hrun with ⟨hid, hsat, hd⟩ | ⟨hnot, rfl⟩
  · exact .inl ⟨hid, hsat, withEngine_drain cs p u false pl r hd⟩
  · exact .inr ⟨hnot, (withEngine_schedule cs p u false pl r _ x _).symm⟩

/-- Away from the commit point the sequencer does not read the flag either. -/
theorem withEngine_expiry {s t : State} (hphase : s.phase ≠ 1) (h : s.expiry = .next t) :
    (s.withEngine cs p u pending pl r).expiry = .next (t.withEngine cs p u pending pl r) := by
  rcases expiry_eq_next h with ⟨h0, rfl⟩ | ⟨h1, -⟩ | ⟨h2, ht⟩
  · exact expiry_of_phase_zero h0
  · exact absurd h1 hphase
  · rw [expiry_of_phase_two (s := s.withEngine cs p u pending pl r) h2, withEngine_drain cs p u pending pl r ht]
    rfl

end

/-- An expiry step leaves the flag alone, or clears it at the commit point (R193, R209). -/
theorem expiry_switchPending {s t : State} (h : s.expiry = .next t) :
    t.switchPending = if s.phase = 1 then false else s.switchPending := by
  rw [(expiry_frame h).switchPending, State.committed]
  split
  · exact commit_switchPending s
  · rfl

/-- Settles O51: the flag keeps its value, so at the commit point too each arm runs as it did. -/
theorem sequencerIgnoresTable : Obligations.SequencerIgnoresTable := by
  intro s t cs p u pl r h
  have hflag := expiry_switchPending h
  by_cases h1 : s.phase = 1
  · rw [if_pos h1] at hflag
    have ht : s.awaitCommit = .ok t := (finish_eq_next_iff _ _).1 ((expiry_of_phase_one h1).symm.trans h)
    calc State.expiry (s.withEngine cs p u s.switchPending pl r)
        = finish (State.awaitCommit (s.withEngine cs p u s.switchPending pl r)) := expiry_of_phase_one h1
      _ = .next (t.withEngine cs p u t.switchPending pl r) := by rw [withEngine_awaitCommit cs p u pl r ht, hflag]; rfl
  · rw [if_neg h1] at hflag
    calc State.expiry (s.withEngine cs p u s.switchPending pl r)
        = .next (t.withEngine cs p u s.switchPending pl r) := withEngine_expiry cs p u _ pl r h1 h
      _ = .next (t.withEngine cs p u t.switchPending pl r) := by rw [hflag]

/-! ### What a preparation publishes (R160, R175, R192) -/

/-- `s` with the buffer `q` prepared and published, and no preparation owed. -/
def State.published (s : State) (q : Buffer) : State :=
  { s.setBuf (!s.active) q with switchPending := true, plan := Plan.idle }

/-- A rebuild that neither starts nor restarts the timer publishes and does nothing else. -/
theorem rebuild_eq_published (s : State) : s.rebuild false false = s.published (s.rebuiltBuffer s.idleBuf) := by
  rw [rebuild_eq, State.published, setBuf_eq]
  rfl

/-- The rebuilt buffer is made of the parameters, the table, the period and the old entries (R160 to R164). -/
theorem rebuiltBuffer_congr {s t : State} (hcfg : t.cfg = s.cfg) (hch : t.ch = s.ch)
    (hp : t.periodWidth = s.periodWidth) (old : Buffer) : t.rebuiltBuffer old = s.rebuiltBuffer old := by
  simp only [State.rebuiltBuffer, State.annotate, State.sortedEntries, clearOf_congr (congrArg _ hch), hcfg, hch, hp]

/-- The buffer that PREP.INCR publishes: the source with the entry moved, or the rebuild of the copied source (R175,
R181). -/
def State.updatedBuffer (s : State) : Buffer :=
  match updateWidth s.plan.ch s.plan.pw s.incrSource.live with
  | none => s.rebuiltBuffer s.incrSource
  | some es => ⟨s.annotate es ++ s.incrSource.rest, s.incrSource.set⟩

/-- An update that does not stop publishes and does nothing else. -/
theorem incr_eq_published {s t : State} (h : s.incr = .ok t) : t = s.published s.updatedBuffer := by
  obtain ⟨-, -, ⟨hu, rfl⟩ | ⟨es, hu, rfl⟩⟩ := incr_eq_ok s t h
  · have hbuf : (s.setBuf (!s.active) s.incrSource).rebuiltBuffer s.incrSource = s.updatedBuffer := by
      rw [State.updatedBuffer, hu]
      exact rebuiltBuffer_congr (setBuf_cfg ..) (setBuf_ch ..) (setBuf_periodWidth ..) _
    rw [rebuild_eq_published, (prepared_setBuf s s.incrSource).2, hbuf]
    cases ha : s.active <;> simp [State.published, State.setBuf, ha]
  · rw [State.updatedBuffer, hu]
    rfl

/-! ### The buffers belong to the command engine, the active one to the sequencer (R66) -/

/-- Phase A spares the active buffer while the timer runs on. -/
theorem CommandResult.active_spared {s t : State} {i : Instr} (h : CommandResult s i t) (hs : s.timerRun = true)
    (ht : t.timerRun = true) : t.active = s.active ∧ t.activeBuf = s.activeBuf := by
  cases h with
  | answers => exact ⟨rfl, rfl⟩
  | rebuilds => exact ⟨rfl, rfl⟩
  | updates => exact ⟨rfl, rfl⟩
  | buffers => exact ⟨rfl, rfl⟩
  | stops => cases ht
  | empties _ _ _ hstop => rw [hstop] at hs; cases hs
  | restarts => exact ⟨rfl, rfl⟩

/-- Phase B spares the active buffer always. -/
theorem phaseB_active_spared {s t : State} (h : s.phaseB = .next t) :
    t.active = s.active ∧ t.activeBuf = s.activeBuf := by
  rcases phaseB_cases h with ⟨-, rfl⟩ | ⟨-, ht⟩
  · exact ⟨(prepared_rebuild s _ _).active, (prepared_rebuild s _ _).activeBuf⟩
  · rw [incr_eq_published ht]
    exact ⟨setBuf_active .., activeBuf_setBuf_idle s _⟩

/-- An expiry step writes neither buffer nor the Channel Table: its commit only flips `active`. -/
theorem expiry_storage {s t : State} (h : s.expiry = .next t) : t.q0 = s.q0 ∧ t.q1 = s.q1 ∧ t.ch = s.ch := by
  have hf := expiry_frame h
  rw [hf.q0, hf.q1, hf.ch, committed_eq s]
  exact ⟨rfl, rfl, rfl⟩

/-- Settles O50: the command engine's two moves, then the sequencer's and the timebase's. -/
theorem bufferOwnership : Obligations.BufferOwnership := by
  intro s t m h
  constructor
  · rintro (rfl | ⟨w, rfl⟩) hs ht
    · exact phaseB_active_spared h
    · obtain ⟨v, hv, hr⟩ := phaseA_result s w
      obtain rfl : v = t := by simpa using hv.symm.trans h
      rcases hr with rfl | ⟨i, -, hr⟩
      · exact ⟨rfl, rfl⟩
      · exact hr.active_spared hs ht
  · rintro (rfl | rfl)
    · exact expiry_storage h
    · cases h
      exact ⟨tick_q0 s, tick_q1 s, tick_ch s⟩

/-! ### A preparation commutes with the sequencer and the timebase (R76) -/

section
variable {s t : State} (hf : SequencerFrame s t)
include hf

/-- What the engine reads of the sources of a preparation is in the sequencer's frame. -/
theorem SequencerFrame.sources : t.idleBuf = s.idleBuf ∧ t.incrSource = s.incrSource := by
  simp only [State.incrSource, State.activeBuf, State.idleBuf, State.buf, hf.plan, hf.q0, hf.q1, hf.active, and_self]

theorem SequencerFrame.rebuiltBuffer : t.rebuiltBuffer t.idleBuf = s.rebuiltBuffer s.idleBuf := by
  rw [hf.sources.1, rebuiltBuffer_congr hf.cfg hf.ch hf.periodWidth]

theorem SequencerFrame.updatedBuffer : t.updatedBuffer = s.updatedBuffer := by
  simp only [State.updatedBuffer, hf.sources.2, hf.plan, rebuiltBuffer_congr hf.cfg hf.ch hf.periodWidth,
    State.annotate, clearOf_congr (congrArg _ hf.ch), hf.cfg]

/-- An update that goes still goes after a step of the sequencer. -/
theorem SequencerFrame.incr_goes {b : State} (h : s.incr = .ok b) : ∃ c, t.incr = .ok c := by
  obtain ⟨hrest, hids, -⟩ := incr_eq_ok s b h
  exact Machine.incr_goes t (by rwa [hf.sources.2]) (by rwa [hf.sources.2, hf.cfg])

end

/-- A preparation that neither starts nor restarts the timer publishes a buffer, and it would publish the same one after a
step of the sequencer or the timebase. -/
theorem phaseB_publishes {s b : State} (hstart : s.plan.start = false) (hresync : s.plan.resync = false)
    (h : s.phaseB = .next b) :
    ∃ q, b = s.published q ∧ ∀ t, SequencerFrame s t → t.phaseB = .next (t.published q) := by
  rcases phaseB_cases h with ⟨hk, rfl⟩ | ⟨hk, hb⟩
  · refine ⟨s.rebuiltBuffer s.idleBuf, by rw [hstart, hresync, rebuild_eq_published], fun t hf => ?_⟩
    calc t.phaseB
        = .next (t.rebuild t.plan.start t.plan.resync) :=
          phaseB_of_decode (i := .prepRebuild) (by rw [hf.plan, hk]; rfl)
      _ = .next (t.published (s.rebuiltBuffer s.idleBuf)) := by
          rw [hf.plan, hstart, hresync, rebuild_eq_published, hf.rebuiltBuffer]
  · refine ⟨s.updatedBuffer, incr_eq_published hb, fun t hf => ?_⟩
    obtain ⟨c, hc⟩ := hf.incr_goes hb
    calc t.phaseB
        = finish t.incr := phaseB_of_decode (i := .prepIncr) (by rw [hf.plan, hk]; rfl)
      _ = .next (t.published s.updatedBuffer) := by rw [hc, incr_eq_published hc, hf.updatedBuffer]; rfl

/-- The tick does not read what a preparation writes. -/
theorem tick_published (s : State) (q : Buffer) : (s.published q).tick = s.tick.published q := by
  have hdue : (s.published q).due = s.due := by simp [State.published, State.due]
  unfold State.tick
  rw [hdue]
  split <;> simp [State.published, setBuf_eq]

/-- Away from the commit point an expiry step leaves the engine's state as it is. -/
theorem expiry_keeps_engine {s t : State} (hphase : s.phase ≠ 1) (h : s.expiry = .next t) :
    t = t.withEngine s.ch s.periodWidth s.pendingUpdates s.switchPending s.plan s.rsp := by
  simpa using h.symm.trans (withEngine_expiry s.ch s.periodWidth s.pendingUpdates s.switchPending s.plan s.rsp hphase h)

/-- Away from the commit point an expiry step does not read what a preparation writes: the non-active buffer (R46), the
flag and the plan. -/
theorem expiry_published {s t : State} (q : Buffer) (hphase : s.phase ≠ 1) (h : s.expiry = .next t) :
    (s.published q).expiry = .next (t.published q) := by
  have hbuf := sequencerIgnoresIdleBuffer s t q (fun hc => hphase hc.1) h
  have hactive : t.active = s.active := by
    rw [(expiry_frame h).active, committed_of_phase_ne hphase]
  have hrun := withEngine_expiry s.ch s.periodWidth s.pendingUpdates true Plan.idle s.rsp
    (by rwa [setBuf_phase]) hbuf
  rw [expiry_keeps_engine hphase h] at hrun ⊢
  simpa [State.published, State.withEngine, setBuf_eq, hactive] using hrun

/-- Settles O26: both orders publish the same buffer, and the move does not see it. -/
theorem preparationCommutes : Obligations.PreparationCommutes := by
  intro s a b m hm hstart hresync ha hb
  obtain ⟨q, rfl, hq⟩ := phaseB_publishes hstart hresync hb
  rcases hm with rfl | ⟨rfl, hphase⟩
  · cases ha
    exact ⟨_, hq _ (sequencerFrame_tick s), congrArg _ (tick_published s q)⟩
  · have hf := expiry_frame ha
    rw [committed_of_phase_ne hphase] at hf
    exact ⟨_, hq a hf, expiry_published q hphase ha⟩

end Sys2Proof.Machine

/-! ## Decoder and encoder are inverse (30_encoding.md R90 to R93, R97, R98)

A word is an assembled command iff its five fields are the command's, so what the decoder tests field by field is the
encoding of what it answers. -/

namespace Sys2Proof

/-- A word is an assembled command iff its fields are those it is assembled from and `z` is zero (R90). -/
theorem cmdWord_eq_iff (w : U32) (op : BitVec 4) (b : BitVec 1) (a : U8) (d : U16) :
    cmdWord op b a d = w ↔ fieldOp w = op ∧ fieldB w = b ∧ fieldZ w = 0 ∧ fieldA w = a ∧ fieldD w = d := by
  conv_lhs => rw [eq_comm, word_eq_fields w, cmdWord_eq, join_inj]

@[simp] theorem fieldDHigh_join (op : BitVec 4) (b : BitVec 1) (z : BitVec 3) (a : U8) (d : U16) :
    fieldDHigh (joinFields op b z a d) = d.extractLsb' 8 8 := by
  rw [fieldDHigh_eq, fieldD_join]

@[simp] theorem fieldMask_join (op : BitVec 4) (b : BitVec 1) (z : BitVec 3) (a : U8) (d : U16) :
    fieldMask (joinFields op b z a d) = d.extractLsb' 0 8 := by
  rw [fieldMask_eq, fieldD_join]

/-- A mask operand fills `d` iff the high half of `d` is zero (R90, R91). -/
theorem fieldD_eq_mask_iff (w : U32) : fieldD w = (fieldMask w).setWidth 16 ↔ fieldDHigh w = 0 := by
  rw [fieldMask_eq, fieldDHigh_eq]
  exact ⟨fun h => by rw [h, maskOperand_high], operand_of_high_zero _⟩

theorem requireZero_eq_ok_iff (ok : Bool) (i j : Instr) : requireZero ok i = .ok j ↔ ok = true ∧ i = j := by
  cases ok <;> simp [requireZero]

/-- What the decoder demands of every command word before it looks at the row (R93). -/
theorem decode_cmd_eq_ok_iff (w : U32) (i : Instr) :
    decode (.cmd w) = .ok i ↔ fieldZ w = 0 ∧ (fieldB w = 1 → fieldOp w = 4) ∧ decodeOp w = .ok i := by
  simp only [decode, decodeCmd]
  split
  case isTrue hz =>
    exact ⟨nofun, fun ⟨hz', _, _⟩ => absurd hz' hz⟩
  case isFalse hz =>
    split
    case isTrue hb =>
      obtain ⟨h1, h4⟩ := hb
      exact ⟨nofun, fun ⟨_, hb', _⟩ => absurd (hb' h1) h4⟩
    case isFalse hb =>
      exact ⟨fun h => ⟨not_not.1 hz, fun h1 => not_not.1 fun h4 => hb ⟨h1, h4⟩, h⟩, fun ⟨_, _, h⟩ => h⟩

/-- Only the row decides about an assembled word, if its flag `b` is SET_PULSE's or clear (R93). -/
theorem decode_cmdWord {op : BitVec 4} {b : BitVec 1} {a : U8} {d : U16} {i : Instr} (hb : b = 1 → op = 4)
    (h : decodeOp (cmdWord op b a d) = .ok i) : decode (.cmd (cmdWord op b a d)) = .ok i :=
  (decode_cmd_eq_ok_iff _ _).2 ⟨fieldZ_join .., by rwa [cmdWord_eq, fieldB_join, fieldOp_join], h⟩

/-- The encoded word has the fields it was assembled from, and they pass the row's test (R92). -/
theorem decode_encode (i : Instr) : decode (encode i) = .ok i := by
  cases i
  case setPulse b ch width =>
    exact decode_cmdWord (fun _ => rfl) (by cases b <;> simp [decodeOp, cmdWord_eq])
  case attach | attachf | detach | getPulse | setFreq | setBaseFreq | setPeriod | forceResync =>
    exact decode_cmdWord (by decide) (by simp [decodeOp, cmdWord_eq, requireZero])
  case prepRebuild | prepIncr | expireAllHigh | expireAwaitCommit | expireDraining => rfl

/-- Settles O1. -/
theorem decodeEncode : Obligations.DecodeEncode := decode_encode

/-- The buffered flag as a Boolean operand, back as a bit (R102). -/
theorem ofBool_beq_one (b : BitVec 1) : BitVec.ofBool (b == 1) = b := by
  rcases BitVec.eq_zero_or_eq_one b with rfl | rfl <;> rfl

/-- The decoder drops no bit of a command word: each field is an operand, or was tested (R93, R107). -/
theorem encode_of_decode {w : U32} {i : Instr} (h : decode (.cmd w) = .ok i) : encode i = .cmd w := by
  obtain ⟨hz, hflag, hop⟩ := (decode_cmd_eq_ok_iff w i).1 h
  have word_of_fields {op : BitVec 4} {a : U8} {d : U16} (hrow : (fieldOp w).toNat = op.toNat) (h4 : op ≠ 4)
      (ha : fieldA w = a) (hd : fieldD w = d) : Code.cmd (cmdWord op 0 a d) = .cmd w := by
    obtain rfl := BitVec.eq_of_toNat_eq hrow
    have hb : fieldB w = 0 := (BitVec.eq_zero_or_eq_one _).resolve_right (mt hflag h4)
    exact congrArg Code.cmd ((cmdWord_eq_iff ..).2 ⟨rfl, hb, hz, ha, hd⟩)
  unfold decodeOp at hop
  split at hop
  case h_4 hrow =>
    cases hop
    exact congrArg Code.cmd
      ((cmdWord_eq_iff ..).2 ⟨BitVec.eq_of_toNat_eq hrow, (ofBool_beq_one _).symm, hz, rfl, rfl⟩)
  case h_10 => cases hop
  all_goals
    obtain ⟨hzero, rfl⟩ := (requireZero_eq_ok_iff ..).1 hop
    simp only [Bool.and_eq_true, beq_iff_eq] at hzero
  case h_1 hrow | h_3 hrow | h_5 hrow => exact word_of_fields hrow (by decide) rfl hzero
  case h_2 hrow | h_6 hrow => exact word_of_fields hrow (by decide) rfl ((fieldD_eq_mask_iff w).2 hzero)
  case h_7 hrow | h_8 hrow => exact word_of_fields hrow (by decide) hzero rfl
  case h_9 hrow =>
    obtain ⟨ha, hd⟩ := hzero
    exact word_of_fields hrow (by decide) ha hd

/-- The decoder answers an instruction iff the word is its encoding. -/
theorem decode_cmd_eq_ok_iff_encode (w : U32) (i : Instr) : decode (.cmd w) = .ok i ↔ encode i = .cmd w :=
  ⟨encode_of_decode, fun h => h ▸ decode_encode i⟩

/-! ### The rows of the opcode map (R92)

The nine rows have five shapes, told apart by the fields that the mask requires to be zero. -/

/-- A row whose operand is the field `a` alone. -/
theorem channel_row_iff (w : U32) (op : BitVec 4) :
    w &&& 0xFF00FFFF = joinFields op 0 0 0 0 ↔ cmdWord op 0 (fieldA w) 0 = w := by
  refine (covers_iff w (.allOnes 4) op (.allOnes 1) 0 (.allOnes 3) 0 0 0 (.allOnes 16) 0).trans ?_
  simp only [BitVec.and_allOnes, cmdWord_eq_iff]
  simp

/-- A row with a channel or a pin in `a` and a mask in `d`. -/
theorem mask_row_iff (w : U32) (op : BitVec 4) :
    w &&& 0xFF00FF00 = joinFields op 0 0 0 0 ↔ cmdWord op 0 (fieldA w) ((fieldMask w).setWidth 16) = w := by
  refine (covers_iff w (.allOnes 4) op (.allOnes 1) 0 (.allOnes 3) 0 0 0 0xFF00 0).trans ?_
  simp only [BitVec.and_allOnes, cmdWord_eq_iff, fieldD_eq_mask_iff, operand_and_high, fieldDHigh_eq]
  simp

/-- A row whose operand is the field `d` alone. -/
theorem wide_row_iff (w : U32) (op : BitVec 4) :
    w &&& 0xFFFF0000 = joinFields op 0 0 0 0 ↔ cmdWord op 0 0 (fieldD w) = w := by
  refine (covers_iff w (.allOnes 4) op (.allOnes 1) 0 (.allOnes 3) 0 (.allOnes 8) 0 0 0).trans ?_
  simp only [BitVec.and_allOnes, cmdWord_eq_iff]
  simp

/-- The row of SET_PULSE, which alone leaves the flag `b` free. -/
theorem pulse_row_iff (w : U32) :
    w &&& 0xF7000000 = joinFields 4 0 0 0 0 ↔ cmdWord 4 (fieldB w) (fieldA w) (fieldD w) = w := by
  refine (covers_iff w (.allOnes 4) 4 0 0 (.allOnes 3) 0 0 0 0 0).trans ?_
  simp only [BitVec.and_allOnes, cmdWord_eq_iff]
  simp

/-- The row of FORCE_RESYNC, which has no operand. -/
theorem bare_row_iff (w : U32) : w &&& 0xFFFFFFFF = joinFields 9 0 0 0 0 ↔ cmdWord 9 0 0 0 = w := by
  rw [show (0xFFFFFFFF : U32) = .allOnes 32 from rfl, BitVec.and_allOnes, eq_comm, cmdWord_eq]

/-- The buffered flag is bit 27 (R90). -/
theorem ofBool_bit27 (w : U32) : BitVec.ofBool (w.getLsbD 27) = fieldB w := by
  ext i hi
  simp [fieldB, show i = 0 by omega]

/-- If a word matches a row iff it is the word `v` that encodes `i`, then it matches iff the decoder answers `i`. -/
theorem row_iff_decode {p : Prop} {w v : U32} {i : Instr} (hi : encode i = .cmd v) (h : p ↔ v = w) :
    p ↔ decode (.cmd w) = .ok i := by
  rw [decode_cmd_eq_ok_iff_encode, hi, h, Code.cmd.injEq]

/-- Settles O2, row by row of R92. -/
theorem commandWords : Obligations.CommandWords := fun w =>
  ⟨row_iff_decode rfl (channel_row_iff w 1), row_iff_decode rfl (mask_row_iff w 2),
    row_iff_decode rfl (channel_row_iff w 3),
    row_iff_decode (congrArg (fun b => Code.cmd (cmdWord 4 b _ _)) (ofBool_bit27 w)) (pulse_row_iff w),
    row_iff_decode rfl (channel_row_iff w 5), row_iff_decode rfl (mask_row_iff w 6),
    row_iff_decode rfl (wide_row_iff w 7), row_iff_decode rfl (wide_row_iff w 8),
    row_iff_decode rfl (bare_row_iff w)⟩

/-! ### One row at most (R92, R107) -/

/-- Every row fixes the whole opcode. -/
theorem fieldOp_of_row {w : U32} {r : CmdRow} (hr : r ∈ cmdRows) (h : w &&& r.mask = r.pattern) :
    fieldOp w = fieldOp r.pattern := by
  have hmask : ∀ r ∈ cmdRows, fieldOp r.mask = BitVec.allOnes 4 := by decide
  rw [← h, fieldOp, fieldOp, BitVec.extractLsb'_and, ← fieldOp, ← fieldOp, hmask r hr, BitVec.and_allOnes]

/-- The opcodes of the rows are distinct, so a word matches one row at most. -/
theorem row_unique {w : U32} {r q : CmdRow} (hr : r ∈ cmdRows) (hq : q ∈ cmdRows) (hwr : w &&& r.mask = r.pattern)
    (hwq : w &&& q.mask = q.pattern) : q = r := by
  have hops : ∀ r ∈ cmdRows, ∀ q ∈ cmdRows, fieldOp q.pattern = fieldOp r.pattern → q = r := by decide
  exact hops r hr q hq ((fieldOp_of_row hq hwq).symm.trans (fieldOp_of_row hr hwr))

/-- A word that matches a row is a command. -/
theorem decode_of_row {w : U32} {r : CmdRow} (hr : r ∈ cmdRows) (h : w &&& r.mask = r.pattern) :
    ∃ i, decode (.cmd w) = .ok i := by
  obtain ⟨attach, attachf, detach, setPulse, getPulse, setFreq, setBaseFreq, setPeriod, forceResync⟩ := commandWords w
  simp only [cmdRows, List.mem_cons, List.not_mem_nil, or_false] at hr
  rcases hr with rfl | rfl | rfl | rfl | rfl | rfl | rfl | rfl | rfl
  · exact ⟨_, attach.1 h⟩
  · exact ⟨_, attachf.1 h⟩
  · exact ⟨_, detach.1 h⟩
  · exact ⟨_, setPulse.1 h⟩
  · exact ⟨_, getPulse.1 h⟩
  · exact ⟨_, setFreq.1 h⟩
  · exact ⟨_, setBaseFreq.1 h⟩
  · exact ⟨_, setPeriod.1 h⟩
  · exact ⟨_, forceResync.1 h⟩

theorem encode_legal (i : Instr) : (encode i).legal = true := by
  cases i with
  | attach pin => exact Laws.EncodeLegal.attach pin
  | attachf pin mask => exact Laws.EncodeLegal.attachf pin mask
  | detach ch => exact Laws.EncodeLegal.detach ch
  | setPulse b ch width => exact Laws.EncodeLegal.setPulse b ch width
  | getPulse ch => exact Laws.EncodeLegal.getPulse ch
  | setFreq ch mask => exact Laws.EncodeLegal.setFreq ch mask
  | setBaseFreq hz => exact Laws.EncodeLegal.setBaseFreq hz
  | setPeriod width => exact Laws.EncodeLegal.setPeriod width
  | forceResync => exact Laws.EncodeLegal.forceResync
  | prepRebuild => exact Laws.EncodeLegal.prepRebuild
  | prepIncr => exact Laws.EncodeLegal.prepIncr
  | expireAllHigh => exact Laws.EncodeLegal.expireAllHigh
  | expireAwaitCommit => exact Laws.EncodeLegal.expireAwaitCommit
  | expireDraining => exact Laws.EncodeLegal.expireDraining

/-- A command matches a row: decoding loses nothing of the word, and an encoding is a legal code. -/
theorem row_of_decode {w : U32} {i : Instr} (h : decode (.cmd w) = .ok i) :
    ∃ r ∈ cmdRows, w &&& r.mask = r.pattern := by
  have hlegal : (Code.cmd w).legal = true := encode_of_decode h ▸ encode_legal i
  obtain ⟨r, hr, hw⟩ := List.any_eq_true.1 hlegal
  exact ⟨r, hr, beq_iff_eq.1 hw⟩

/-- Settles O3. -/
theorem decodingIsTotal : Obligations.DecodingIsTotal := by
  intro w
  cases hd : decode (.cmd w) with
  | ok i =>
    obtain ⟨r, hr, hw⟩ := row_of_decode hd
    exact .inl ⟨⟨r, hr, hw, fun q hq hwq => row_unique hr hq hw hwq⟩, i, rfl, encode_of_decode hd⟩
  | error e =>
    refine .inr ⟨fun r hr hw => ?_, e, rfl⟩
    obtain ⟨i, hi⟩ := decode_of_row hr hw
    cases hd.symm.trans hi

/-- Settles O4: each code is the encoding of its instruction. -/
theorem exampleWords : Obligations.ExampleWords :=
  ⟨decode_encode (.attach 2), decode_encode (.attachf 3 0x55), decode_encode (.detach 6),
    decode_encode (.setPulse false 7 1500), decode_encode (.setPulse true 7 1500), decode_encode (.getPulse 7),
    decode_encode (.setFreq 7 1), decode_encode (.setBaseFreq 50), decode_encode (.setPeriod 2000),
    decode_encode .forceResync, decode_encode .prepRebuild, decode_encode .prepIncr, decode_encode .expireAllHigh,
    decode_encode .expireAwaitCommit, decode_encode .expireDraining⟩

end Sys2Proof

/-! ## The response word and the answer to a command word (30_encoding.md R94, R95, R106, R136) -/

namespace Sys2Proof.Machine

/-- Settles O5: each field is read off the part of the concatenation that it stands in. -/
theorem responseFields : Obligations.ResponseFields := by
  intro ok ill v
  refine ⟨?ok, ?ill, ?zero, BitVec.extractLsb'_append_eq_right⟩
  case ok =>
    simp only [responseWord, BitVec.getLsbD_append]
    simp
  case ill =>
    simp only [responseWord, BitVec.getLsbD_append]
    simp
  case zero =>
    ext i hi
    simp only [responseWord, BitVec.getElem_extractLsb', BitVec.getLsbD_append]
    simp [hi]

/-- The outcome of a command on `s`: OK with a result, or FAIL and nothing else (R95). -/
def State.Answers (s : State) (o : Host.Outcome State Fault Refusal) : Prop :=
  ∃ t, o = .next t ∧ ((∃ v, t.rsp = okWord v) ∨ t = { s with rsp := failWord })

theorem answers_respondOk (s u : State) (v : U16) : s.Answers (.next (u.respondOk v)) :=
  ⟨_, rfl, .inl ⟨v, responseWord_ok v⟩⟩

theorem answers_respondFail (s : State) : s.Answers (.next s.respondFail) :=
  ⟨_, rfl, .inr (respondFail_eq_failWord s)⟩

/-- A command that fails on an invalid channel answers if it answers on a valid one (R120). -/
theorem answers_ite_respondFail {s : State} {b : Bool} {o : Host.Outcome State Fault Refusal} (h : s.Answers o) :
    s.Answers (if b then o else .next s.respondFail) := by
  cases b
  · exact answers_respondFail s
  · exact h

theorem attach_answers (s : State) (pin : U8) : s.Answers (execAttach pin s) := by
  unfold execAttach
  split
  · exact answers_respondFail s
  · split
    · exact answers_respondOk s s _
    · split
      · exact answers_respondFail s
      · exact answers_respondOk s _ _

theorem attachf_answers (s : State) (pin mask : U8) : s.Answers (execAttachf pin mask s) := by
  unfold execAttachf
  split
  · exact answers_respondFail s
  · split
    · exact answers_respondOk s _ _
    · split
      · exact answers_respondFail s
      · exact answers_respondOk s _ _

theorem setPulse_answers (s : State) (b : Bool) (ch : U8) (width : U16) : s.Answers (execSetPulse b ch width s) := by
  refine answers_ite_respondFail ?_
  dsimp only
  split <;> exact answers_respondOk s _ _

theorem setPeriodCommon_answers (s : State) (p : U16) : s.Answers (.next (s.setPeriodCommon p)) := by
  rcases setPeriodCommon_cases s p with ⟨-, e⟩ | ⟨-, -, e⟩ | ⟨-, -, -, e⟩ | ⟨-, -, -, e⟩ <;> rw [e]
  · exact answers_respondFail s
  all_goals exact answers_respondOk s _ _

theorem setBaseFreq_answers (s : State) (hz : U16) : s.Answers (execSetBaseFreq hz s) := by
  unfold execSetBaseFreq
  split
  · exact setPeriodCommon_answers s _
  · exact answers_respondFail s

theorem forceResync_answers (s : State) : s.Answers (execForceResync s) := by
  unfold execForceResync
  split <;> exact answers_respondOk s _ _

/-- Every command answers at once (R95, R136). -/
theorem exec_command_answers {i : Instr} {v : U32} (hi : encode i = .cmd v) (s : State) : s.Answers (exec i s) := by
  cases i with
  | attach pin => exact attach_answers s pin
  | attachf pin mask => exact attachf_answers s pin mask
  | detach ch => exact answers_ite_respondFail (answers_respondOk s _ _)
  | setPulse b ch width => exact setPulse_answers s b ch width
  | getPulse ch => exact answers_ite_respondFail (answers_respondOk s _ _)
  | setFreq ch mask => exact answers_ite_respondFail (answers_respondOk s _ _)
  | setBaseFreq hz => exact setBaseFreq_answers s hz
  | setPeriod width => exact setPeriodCommon_answers s width
  | forceResync => exact forceResync_answers s
  | prepRebuild => cases hi
  | prepIncr => cases hi
  | expireAllHigh => cases hi
  | expireAwaitCommit => cases hi
  | expireDraining => cases hi

/-- A word that is no command answers ILLEGAL and nothing else (R93, R133). -/
theorem phaseA_of_decode_error (s : State) {w : U32} {e : DecodeError} (h : decode (.cmd w) = .error e) :
    s.phaseA w = .next { s with rsp := illegalWord } := by
  simp only [State.phaseA, h, respondIllegal_eq_illegalWord]

/-- Settles O7: an idle engine takes the word at once; a command answers OK or FAIL, any other word ILLEGAL. -/
theorem acceptedWordIsAnswered : Obligations.AcceptedWordIsAnswered := by
  intro s ms w hv hs hidle
  rw [step_of_script hv hs (by simp [State.enabled, State.busy, hidle])]
  change ∃ t, State.phaseA { s with script := ms } w = .next t ∧ _
  cases hd : decode (.cmd w) with
  | ok i =>
    rw [phaseA_of_decode _ hd]
    obtain ⟨t, ht, hok | hfail⟩ := exec_command_answers (encode_of_decode hd) { s with script := ms }
    · exact ⟨t, ht, .inl hok⟩
    · exact ⟨t, ht, .inr (.inl hfail)⟩
  | error e =>
    exact ⟨_, phaseA_of_decode_error _ hd, .inr (.inr rfl)⟩

/-- A scripted step drops a move that is not enabled (log 4). -/
theorem step_of_script_not_enabled {s : State} {m : Move} {ms : List Move} (hv : s.cfg.valid = true)
    (h : s.script = m :: ms) (he : ¬ State.enabled { s with script := ms } m = true) :
    step s = .next { s with script := ms } := by
  rw [step_eq s hv, nextMove_of_script h, offer_of_not_enabled he]

/-- Settles O40: in each of the three cases the move is not enabled. -/
theorem disabledMoveHasNoEffect : Obligations.DisabledMoveHasNoEffect := by
  intro s ms hv
  refine ⟨fun w hs hbusy => ?command, fun hs hidle => ?prepare, fun hs hdue => ?expire⟩
  case command => exact step_of_script_not_enabled hv hs (by simpa [State.enabled, State.busy] using hbusy)
  case prepare => exact step_of_script_not_enabled hv hs (mt (busy_eq_true_iff _).1 (not_not.2 hidle))
  case expire => exact step_of_script_not_enabled hv hs (mt (due_eq_true_iff _).1 hdue)

end Sys2Proof.Machine

/-! ## What each command answers, case by case (40_channel_table_commands.md R120 to R131) -/

namespace Sys2Proof.Machine

/-! ### The answers (R94, R95, R122) -/

/-- A chosen rebuild with its answer: everything that R122 writes. -/
theorem respondOk_chooseRebuild (s : State) (start resync : Bool) (v : U16) :
    (s.chooseRebuild start resync).respondOk v = { s with
      switchPending := false
      plan := ⟨1, start, resync, false, 0, 0⟩
      pendingUpdates := 0
      rsp := okWord v } :=
  respondOk_eq_okWord _ v

/-- A stopped machine with its answer: everything that R214 writes. -/
theorem respondOk_stop (s : State) (v : U16) :
    s.stop.respondOk v = { s with
      timerRun := false
      timerCnt := 0
      late := 0
      gpioOut := s.gpioOut &&& ~~~ s.asserted
      asserted := 0
      switchPending := false
      active := false
      phase := 0
      cursor := 0
      slot := 0
      pendingUpdates := 0
      q0 := emptyBuffer s.cfg.n s.periodWidth
      q1 := emptyBuffer s.cfg.n s.periodWidth
      rsp := okWord v } :=
  respondOk_eq_okWord _ v

/-- A restarted period with its answer: everything that R215 writes. -/
theorem respondOk_restart (s : State) (v : U16) :
    s.restart.respondOk v = { s with phase := 0, cursor := 0, timerCnt := 0, late := 0, rsp := okWord v } :=
  respondOk_eq_okWord _ v

/-- A new binding: the record, the rebuild and the answer (R123, R124). -/
theorem bindNew_eq (s : State) (i : Nat) (pin mask : U8) :
    s.bindNew i pin mask = { s with
      ch := s.ch.set i ⟨pin, s.clampw (BitVec.ofNat 16 s.cfg.defaultPulse), mask⟩
      switchPending := false
      plan := ⟨1, !s.timerRun, false, false, 0, 0⟩
      pendingUpdates := 0
      rsp := okWord (BitVec.ofNat 16 i) } :=
  respondOk_chooseRebuild _ _ _ _

/-- A mask given to a channel, with the answer (R124, R128). -/
theorem respondOk_changeMask {s : State} {i : Nat} {r : Channel} (hr : s.ch[i]? = some r) (m : U8) (v : U16) :
    (s.changeMask i m).respondOk v =
      if r.mask = m then { s with rsp := okWord v }
      else { s with
        ch := s.ch.set i { r with mask := m }
        switchPending := false
        plan := ⟨1, false, false, false, 0, 0⟩
        pendingUpdates := 0
        rsp := okWord v } := by
  rcases changeMask_cases s i m with ⟨hm, e⟩ | ⟨hm, e⟩ <;> rw [e] <;> rw [getD_of_getElem? hr] at hm
  · rw [if_pos hm, respondOk_eq_okWord]
  · rw [if_neg hm, respondOk_chooseRebuild, getD_of_getElem? hr]
    rfl

/-! ### A channel operand (R120) -/

/-- A command of an invalid channel fails (R120). -/
theorem ite_validCh_of_invalid {s : State} {c : U8} (h : ∀ r, ¬ s.ValidChannel c r)
    (o : Host.Outcome State Fault Refusal) :
    (if s.validCh c then o else .next s.respondFail) = .next { s with rsp := failWord } := by
  rw [validCh_eq_false s c h, if_neg Bool.false_ne_true, respondFail_eq_failWord]

/-- A command of a valid channel does not fail (R120). -/
theorem ite_validCh_of_valid {s : State} {c : U8} {r : Channel} (h : s.ValidChannel c r)
    (o o' : Host.Outcome State Fault Refusal) : (if s.validCh c then o else o') = o :=
  if_pos ((validCh_eq_true_iff s c).2 ⟨r, h⟩)

/-- Settles O12. -/
theorem getPulseResult : Obligations.GetPulseResult := by
  refine fun s c => ⟨fun hinvalid => ite_validCh_of_invalid hinvalid _, fun r hr => ?_⟩
  change execGetPulse c s = _
  rw [execGetPulse, ite_validCh_of_valid hr, channel_of_valid s c r hr, respondOk_eq_okWord]

/-- Settles O13: a valid channel has a record, and giving it a mask is said once. -/
theorem setFreqResult : Obligations.SetFreqResult := by
  refine fun s c mask => ⟨fun hinvalid => ite_validCh_of_invalid hinvalid _, fun r hr => ?_⟩
  change execSetFreq c mask s = _
  obtain ⟨-, hrec, -⟩ := id hr
  rw [execSetFreq, ite_validCh_of_valid hr, respondOk_changeMask hrec]

/-- The saturating count, as R126 says it. -/
theorem satinc8_eq (v : U8) : satinc8 v = if v = 255 then 255 else v + 1 := by
  unfold satinc8
  by_cases h : v = 255
  · rw [if_pos h, if_neg (by simp [h])]
  · rw [if_neg h, if_pos (by bv_omega)]

/-- Settles O11: the width is compared after clamping; what follows a change is one of the three choices of R126. -/
theorem setPulseResult : Obligations.SetPulseResult := by
  refine fun s b c width => ⟨fun hinvalid => ite_validCh_of_invalid hinvalid _, fun r hr => ?_⟩
  change execSetPulse b c width s = _
  rw [execSetPulse, ite_validCh_of_valid hr, channel_of_valid s c r hr]
  dsimp only
  by_cases hw : s.clampw width = r.pw
  · rw [if_pos hw, if_pos hw, respondOk_eq_okWord]
  · rw [if_neg hw, if_neg hw]
    rcases widthChanged_cases (s.setChannel c.toNat { r with pw := s.clampw width }) b c (s.clampw width) with
      ⟨hb, e⟩ | ⟨hb, hp, e⟩ | ⟨hb, hp, e⟩ <;> rw [e]
    · rw [if_pos hb, respondOk_eq_okWord, satinc8_eq]
      rfl
    · rw [setChannel_pendingUpdates] at hp
      rw [if_neg (by simp [hb]), if_pos hp, respondOk_eq_okWord]
      rfl
    · rw [setChannel_pendingUpdates] at hp
      rw [if_neg (by simp [hb]), if_neg hp, respondOk_chooseRebuild]
      rfl

/-- Settles O18: after SET_PULSE the channel is valid and its record holds the clamped width, which is what GET_PULSE
answers. -/
theorem getPulseAfterSetPulse : Obligations.GetPulseAfterSetPulse := by
  intro s b c width r hr
  obtain ⟨hc, hrec, hpin⟩ := id hr
  have hset : (s.ch.set c.toNat { r with pw := s.clampw width })[c.toNat]? = some { r with pw := s.clampw width } :=
    List.getElem?_set_self (List.getElem?_eq_some_iff.1 hrec).1
  obtain ⟨t, ht, u, hu, hpw⟩ : ∃ t, exec (.setPulse b c width) s = .next t ∧
      ∃ u : Channel, t.ValidChannel c u ∧ u.pw = s.clampw width := by
    refine ⟨_, (setPulseResult s b c width).2 r hr, ?_⟩
    split
    · exact ⟨r, hr, Eq.symm ‹_›⟩
    · refine ⟨{ r with pw := s.clampw width }, ?_, rfl⟩
      split
      · exact ⟨hc, hset, hpin⟩
      · split <;> exact ⟨hc, hset, hpin⟩
  exact ⟨t, _, ht, (getPulseResult t c).2 u hu, by rw [hpw]⟩

/-! ### ATTACH and ATTACHF (R123, R124, R132) -/

theorem badPin_of_not_exists {s : State} {pin : U8} (h : ¬ s.PinExists pin) : s.badPin pin = true := by
  rwa [← badPin_eq_false_iff, Bool.not_eq_false] at h

theorem boundChannel_of_first {s : State} {pin : U8} {i : Nat} {c : Channel} (hi : s.ch[i]? = some c) (hc : c.pin = pin)
    (hfirst : ∀ j < i, ∀ d, s.ch[j]? = some d → d.pin ≠ pin) : s.boundChannel pin = some i :=
  (firstIndex_eq_some_iff _ _ _).2 ⟨⟨c, hi, by simp [hc]⟩, fun j hj d hd => by simpa using hfirst j hj d hd⟩

theorem boundChannel_eq_none_iff (s : State) (pin : U8) : s.boundChannel pin = none ↔ ∀ d ∈ s.ch, d.pin ≠ pin := by
  simp [State.boundChannel, firstIndex_eq_none_iff]

theorem highestFree_of_last {s : State} {i : Nat} {c : Channel} (hi : s.ch[i]? = some c) (hc : c.pin = unassigned)
    (hlast : ∀ j, i < j → ∀ d, s.ch[j]? = some d → d.pin ≠ unassigned) : s.highestFree = some i :=
  (lastIndex_eq_some_iff _ _ _).2
    ⟨⟨c, hi, by simp [Channel.assigned, hc]⟩, fun j hj d hd => by simpa [Channel.assigned] using hlast j hj d hd⟩

theorem highestFree_eq_none_iff (s : State) : s.highestFree = none ↔ ∀ d ∈ s.ch, d.pin ≠ unassigned := by
  simp [State.highestFree, lastIndex_eq_none_iff, Channel.assigned]

/-- What ATTACH and ATTACHF have in common (R123, R124): the two searches and their answers. `onBound` is the state that a
bound pin's channel leaves, but for the answer. -/
def State.attachWith (s : State) (pin mask : U8) (onBound : Nat → State) : Host.Outcome State Fault Refusal :=
  if s.badPin pin then .next s.respondFail
  else
    match s.boundChannel pin, s.highestFree with
    | some i, _ => .next ((onBound i).respondOk (BitVec.ofNat 16 i))
    | none, none => .next s.respondFail
    | none, some i => .next (s.bindNew i pin mask)

theorem exec_attach_eq (pin : U8) (s : State) : exec (.attach pin) s = s.attachWith pin 0xFF fun _ => s := by
  unfold State.attachWith
  change execAttach pin s = _
  unfold execAttach
  cases s.boundChannel pin <;> cases s.highestFree <;> rfl

theorem exec_attachf_eq (pin mask : U8) (s : State) :
    exec (.attachf pin mask) s = s.attachWith pin mask fun i => s.changeMask i mask := by
  unfold State.attachWith
  change execAttachf pin mask s = _
  unfold execAttachf
  cases s.boundChannel pin <;> cases s.highestFree <;> rfl

section

variable {s : State} {pin : U8} (mask : U8) (onBound : Nat → State)

theorem attachWith_refused (h : ¬ s.PinExists pin) :
    s.attachWith pin mask onBound = .next { s with rsp := failWord } := by
  rw [State.attachWith, if_pos (badPin_of_not_exists h), respondFail_eq_failWord]

theorem attachWith_bound (hpin : s.PinExists pin) {i : Nat} {c : Channel} (hi : s.ch[i]? = some c) (hc : c.pin = pin)
    (hfirst : ∀ j < i, ∀ d, s.ch[j]? = some d → d.pin ≠ pin) :
    s.attachWith pin mask onBound = .next ((onBound i).respondOk (BitVec.ofNat 16 i)) := by
  simp only [State.attachWith, (badPin_eq_false_iff s pin).2 hpin, Bool.false_eq_true, if_false,
    boundChannel_of_first hi hc hfirst]

theorem attachWith_full (hpin : s.PinExists pin) (hnew : ∀ d ∈ s.ch, d.pin ≠ pin)
    (hfull : ∀ d ∈ s.ch, d.pin ≠ unassigned) : s.attachWith pin mask onBound = .next { s with rsp := failWord } := by
  simp only [State.attachWith, (badPin_eq_false_iff s pin).2 hpin, Bool.false_eq_true, if_false,
    (boundChannel_eq_none_iff s pin).2 hnew, (highestFree_eq_none_iff s).2 hfull, respondFail_eq_failWord]

theorem attachWith_new (hpin : s.PinExists pin) (hnew : ∀ d ∈ s.ch, d.pin ≠ pin) {i : Nat} {c : Channel}
    (hi : s.ch[i]? = some c) (hc : c.pin = unassigned)
    (hlast : ∀ j, i < j → ∀ d, s.ch[j]? = some d → d.pin ≠ unassigned) :
    s.attachWith pin mask onBound = .next (s.bindNew i pin mask) := by
  simp only [State.attachWith, (badPin_eq_false_iff s pin).2 hpin, Bool.false_eq_true, if_false,
    (boundChannel_eq_none_iff s pin).2 hnew, highestFree_of_last hi hc hlast]

variable {mask onBound}

/-- The four cases of R123 are all there are. -/
theorem attachWith_cases {t : State} (h : s.attachWith pin mask onBound = .next t) :
    t = { s with rsp := failWord } ∨
    (∃ i c, s.ch[i]? = some c ∧ c.pin = pin ∧ t = (onBound i).respondOk (BitVec.ofNat 16 i)) ∨
    (pin ≠ unassigned ∧ (∀ d ∈ s.ch, d.pin ≠ pin) ∧
      ∃ i c, s.ch[i]? = some c ∧ c.assigned = false ∧ t = s.bindNew i pin mask) := by
  unfold State.attachWith at h
  split at h
  · cases h
    exact .inl (respondFail_eq_failWord s)
  · rename_i hbad
    split at h <;> cases h
    · rename_i i hbound
      obtain ⟨c, hi, hc⟩ := boundChannel_spec hbound
      exact .inr (.inl ⟨i, c, hi, hc, rfl⟩)
    · exact .inl (respondFail_eq_failWord s)
    · rename_i i hbound hfree
      obtain ⟨c, hi, hc⟩ := highestFree_spec hfree
      exact .inr (.inr ⟨pin_ne_of_badPin (Bool.eq_false_iff.2 hbad), (boundChannel_eq_none_iff s pin).1 hbound, i, c, hi,
        hc, rfl⟩)

end

/-- Settles O8: a bound pin's channel is only answered. -/
theorem attachResult : Obligations.AttachResult := by
  intro s pin
  rw [exec_attach_eq]
  refine ⟨attachWith_refused _ _, fun hpin => ⟨fun i c hi hc hfirst => ?bound, attachWith_full _ _ hpin,
    fun hnew i c hi hc hlast => ?new⟩⟩
  case bound => rw [attachWith_bound _ _ hpin hi hc hfirst, respondOk_eq_okWord]
  case new => rw [attachWith_new _ _ hpin hnew hi hc hlast, bindNew_eq]

/-- Settles O9: as ATTACH, and a bound pin's channel is given the mask. -/
theorem attachfResult : Obligations.AttachfResult := by
  intro s pin mask
  rw [exec_attachf_eq]
  refine ⟨attachWith_refused _ _, fun hpin => ⟨fun i c hi hc hfirst => ?bound, attachWith_full _ _ hpin,
    fun hnew i c hi hc hlast => ?new⟩⟩
  case bound => rw [attachWith_bound _ _ hpin hi hc hfirst, respondOk_changeMask hi]
  case new => rw [attachWith_new _ _ hpin hnew hi hc hlast, bindNew_eq]

/-! ### DETACH (R125) -/

/-- A table with one slot freed has an assigned channel iff another channel is assigned (R125). -/
theorem any_assigned_set_free_iff (cs : List Channel) (i : Nat) (r : Channel) :
    (cs.set i { r with pin := unassigned }).any Channel.assigned = true ↔
      ∃ j d, j ≠ i ∧ cs[j]? = some d ∧ d.pin ≠ unassigned := by
  simp only [List.any_eq_true, List.mem_iff_getElem?, List.getElem?_set, assigned_iff]
  constructor
  · rintro ⟨d, ⟨j, hj⟩, hd⟩
    by_cases hij : i = j
    · rw [if_pos hij] at hj
      split at hj <;> cases hj
      exact absurd rfl hd
    · exact ⟨j, d, Ne.symm hij, by rwa [if_neg hij] at hj, hd⟩
  · rintro ⟨j, d, hji, hj, hd⟩
    exact ⟨d, ⟨j, by rwa [if_neg (Ne.symm hji)]⟩, hd⟩

theorem freeSlot_of_valid {s : State} {c : U8} {r : Channel} (h : s.ValidChannel c r) :
    s.freeSlot c = { s with ch := s.ch.set c.toNat { r with pin := unassigned } } := by
  rw [State.freeSlot, channel_of_valid s c r h, State.setChannel]

theorem freeSlot_anyAssigned_iff {s : State} {c : U8} {r : Channel} (h : s.ValidChannel c r) :
    (s.freeSlot c).anyAssigned = true ↔ ∃ j d, j ≠ c.toNat ∧ s.ch[j]? = some d ∧ d.pin ≠ unassigned := by
  rw [freeSlot_of_valid h]
  exact any_assigned_set_free_iff s.ch c.toNat r

/-- Settles O10: the timer stops iff no other channel is assigned. -/
theorem detachResult : Obligations.DetachResult := by
  refine fun s c => ⟨fun hinvalid => ite_validCh_of_invalid hinvalid _, fun r hr => ?_⟩
  change (_ → execDetach c s = _) ∧ (_ → execDetach c s = _)
  rw [execDetach, ite_validCh_of_valid hr]
  dsimp only
  refine ⟨fun hother => ?another, fun hfree => ?last⟩
  case another => rw [if_pos ((freeSlot_anyAssigned_iff hr).2 hother), respondOk_chooseRebuild, freeSlot_of_valid hr]
  case last =>
    have hnone := mt (freeSlot_anyAssigned_iff hr).1 fun ⟨j, d, hj, hd, ha⟩ => ha (hfree j d hj hd)
    rw [if_neg hnone, respondOk_stop, freeSlot_of_valid hr]

/-! ### The period and the resync (R129 to R131) -/

/-- The new period, and the widths of the assigned channels inside its band (R130). -/
theorem withPeriod_eq (s : State) (p : U16) :
    s.withPeriod p = { s with
      periodWidth := p
      ch := s.ch.map (fun c => if c.pin = unassigned then c else
        { c with pw := BitVec.ofNat 16 (clamp c.pw.toNat s.cfg.minPulse (p.toNat - s.cfg.minPulse)) }) } := by
  have hmap : (s.withPeriod p).ch = s.ch.map (fun c => if c.pin = unassigned then c else
      { c with pw := BitVec.ofNat 16 (clamp c.pw.toNat s.cfg.minPulse (p.toNat - s.cfg.minPulse)) }) :=
    List.map_congr_left fun c _ => by
      by_cases h : c.pin = unassigned <;> simp [Channel.assigned, h, State.clampw]
  rw [← hmap]
  rfl

/-- Settles O14, branch by branch of set_period_common. -/
theorem setPeriodResult : Obligations.SetPeriodResult := by
  intro s p
  change Host.Outcome.next (s.setPeriodCommon p) = _
  rcases setPeriodCommon_cases s p with ⟨h, e⟩ | ⟨h, hp, e⟩ | ⟨h, hp, hrun, e⟩ | ⟨h, hp, hrun, e⟩ <;> rw [e]
  · rw [if_pos h, respondFail_eq_failWord]
  · rw [if_neg (Nat.not_lt.2 h), if_pos hp, respondOk_eq_okWord]
  · rw [if_neg (Nat.not_lt.2 h), if_neg hp, if_pos hrun, respondOk_chooseRebuild, withPeriod_eq]
  · rw [if_neg (Nat.not_lt.2 h), if_neg hp, if_neg (by simp [hrun]), respondOk_eq_okWord, withPeriod_eq]
    rfl

theorem periodOfRate_of_rate {hz p : U16}
    (h : (hz = 50 ∧ p = 20000) ∨ (hz = 100 ∧ p = 10000) ∨ (hz = 200 ∧ p = 5000) ∨ (hz = 400 ∧ p = 2500)) :
    periodOfRate hz = some p := by
  rcases h with ⟨rfl, rfl⟩ | ⟨rfl, rfl⟩ | ⟨rfl, rfl⟩ | ⟨rfl, rfl⟩ <;> rfl

theorem periodOfRate_eq_none {hz : U16} (h50 : hz ≠ 50) (h100 : hz ≠ 100) (h200 : hz ≠ 200) (h400 : hz ≠ 400) :
    periodOfRate hz = none := by
  rw [periodOfRate, if_neg h400, if_neg h200, if_neg h100, if_neg h50]

/-- Settles O15: the four rates select their periods, and no other rate selects one. -/
theorem setBaseFreqResult : Obligations.SetBaseFreqResult := by
  refine fun s hz => ⟨fun p hrate => ⟨s.setPeriodCommon p, ?_, rfl⟩, fun h50 h100 h200 h400 => ?_⟩
  · simp only [exec, execSetBaseFreq, periodOfRate_of_rate hrate]
  · simp only [exec, execSetBaseFreq, periodOfRate_eq_none h50 h100 h200 h400, respondFail_eq_failWord]

/-- Settles O16. -/
theorem forceResyncResult : Obligations.ForceResyncResult := by
  intro s
  change execForceResync s = _
  unfold execForceResync
  by_cases hrun : s.timerRun = true
  · rw [if_pos hrun, if_neg (show ¬ s.timerRun = false by simp [hrun])]
    by_cases hp : s.pendingUpdates = 0
    · rw [if_pos hp, if_neg (show ¬ 0 < s.pendingUpdates by simp [hp]), respondOk_restart]
    · rw [if_neg hp, if_pos (show 0 < s.pendingUpdates by bv_omega), respondOk_chooseRebuild]
  · rw [if_neg hrun, if_pos (Bool.eq_false_iff.2 hrun), respondOk_eq_okWord]

/-- Settles O17: the clamp is max and min on an interval that is not empty, and its bounds fit the word. -/
theorem clampedWidth : Obligations.ClampedWidth := by
  intro s v _ hband
  have hlt := s.periodWidth.isLt
  rw [State.clampw, clamp_eq_max_min _ _ _ (by omega), BitVec.toNat_ofNat, Nat.mod_eq_of_lt (by omega)]

/-! ### An illegal word (R133), and no stop (R136) -/

/-- Settles O6: a word that decodes matches a row, so this one does not decode. -/
theorem illegalWordChangesNothing : Obligations.IllegalWordChangesNothing := by
  intro s ms w hv hs hidle hrow
  rw [step_of_script hv hs (by simp [State.enabled, State.busy, hidle])]
  change State.phaseA { s with script := ms } w = _
  cases hd : decode (.cmd w) with
  | ok i =>
    obtain ⟨r, hr, hw⟩ := row_of_decode hd
    exact absurd hw (hrow r hr)
  | error e => exact phaseA_of_decode_error _ hd

/-- Settles O45. -/
theorem invStepGoes : Obligations.InvStepGoes := fun _ hs => step_goes hs

end Sys2Proof.Machine

/-! ## The assigned channels and the buffered updates over every instruction (40_channel_table_commands.md R134, R135) -/

namespace Sys2Proof.Machine

/-! ### Counting the assigned channels -/

theorem assignedCount_of_pins {s t : State} (h : t.ch.map Channel.pin = s.ch.map Channel.pin) :
    t.assignedCount = s.assignedCount := by
  have hcount : ∀ u : State, u.assignedCount = (u.ch.map Channel.pin).countP (· != unassigned) := fun u => by
    rw [List.countP_map]
    rfl
  rw [hcount, hcount, h]

/-- Writing one record changes the count by that record. -/
theorem countP_assigned_set {cs : List Channel} {i : Nat} {r : Channel} (h : cs[i]? = some r) (c : Channel) :
    (cs.set i c).countP Channel.assigned + (if r.assigned then 1 else 0) =
      cs.countP Channel.assigned + (if c.assigned then 1 else 0) := by
  obtain ⟨hi, rfl⟩ := List.getElem?_eq_some_iff.1 h
  have hle : (if cs[i].assigned then 1 else 0) ≤ cs.countP Channel.assigned := by
    split
    · exact List.countP_pos_iff.2 ⟨cs[i], List.getElem_mem hi, ‹_›⟩
    · exact Nat.zero_le _
  rw [List.countP_set hi]
  omega

/-! ### What each instruction does to the pins and to the buffered updates -/

theorem okWord_bit31 (v : U16) : (okWord v).getLsbD 31 = true := by
  rw [← responseWord_ok]
  exact (responseFields true false v).1

theorem failWord_bit31 : ¬ failWord.getLsbD 31 = true := by decide

/-- The pins of the table stay, and nothing becomes buffered. -/
structure Unbuffered (s t : State) : Prop where
  pins : t.ch.map Channel.pin = s.ch.map Channel.pin
  pending : s.pendingUpdates = 0 → t.pendingUpdates = 0

theorem changeMask_unbuffered {s : State} {i : Nat} {r : Channel} (hr : s.ch[i]? = some r) (m : U8) :
    Unbuffered s (s.changeMask i m) := by
  rcases changeMask_cases s i m with ⟨-, e⟩ | ⟨-, e⟩ <;> rw [e]
  · exact ⟨rfl, id⟩
  · exact ⟨map_pin_set_self hr (by rw [getD_of_getElem? hr]), fun _ => rfl⟩

theorem setPeriodCommon_unbuffered (s : State) (p : U16) : Unbuffered s (s.setPeriodCommon p) := by
  rcases setPeriodCommon_cases s p with ⟨-, e⟩ | ⟨-, -, e⟩ | ⟨-, -, -, e⟩ | ⟨-, -, -, e⟩ <;> rw [e]
  · exact ⟨rfl, id⟩
  · exact ⟨rfl, id⟩
  · exact ⟨withPeriod_pins s p, fun _ => rfl⟩
  · exact ⟨withPeriod_pins s p, id⟩

theorem setBaseFreq_unbuffered {s t : State} {hz : U16} (h : exec (.setBaseFreq hz) s = .next t) : Unbuffered s t := by
  change execSetBaseFreq hz s = _ at h
  unfold execSetBaseFreq at h
  split at h <;> cases h
  · exact setPeriodCommon_unbuffered s _
  · exact ⟨rfl, id⟩

theorem getPulse_unbuffered {s t : State} {c : U8} (h : exec (.getPulse c) s = .next t) : Unbuffered s t := by
  change execGetPulse c s = _ at h
  unfold execGetPulse at h
  split at h <;> cases h <;> exact ⟨rfl, id⟩

theorem setFreq_unbuffered {s t : State} {c mask : U8} (h : exec (.setFreq c mask) s = .next t) : Unbuffered s t := by
  change execSetFreq c mask s = _ at h
  unfold execSetFreq at h
  split at h <;> cases h
  · obtain ⟨r, hr, -⟩ := validCh_record ‹_›
    obtain ⟨hpins, hpending⟩ := changeMask_unbuffered hr mask
    exact ⟨hpins, hpending⟩
  · exact ⟨rfl, id⟩

theorem forceResync_unbuffered {s t : State} (h : exec .forceResync s = .next t) : Unbuffered s t := by
  rw [forceResyncResult s] at h
  cases h
  split
  · exact ⟨rfl, id⟩
  · split
    · exact ⟨rfl, fun _ => rfl⟩
    · exact ⟨rfl, id⟩

/-- SET_PULSE leaves the pins, and makes something buffered only as R126 says. -/
theorem setPulse_pins_pending {s t : State} {b : Bool} {c : U8} {v : U16} (h : exec (.setPulse b c v) s = .next t) :
    t.ch.map Channel.pin = s.ch.map Channel.pin ∧
    (s.pendingUpdates = 0 → t.pendingUpdates ≠ 0 → b = true ∧ ∃ r, s.ValidChannel c r ∧ s.clampw v ≠ r.pw) := by
  obtain ⟨hinvalid, hvalid⟩ := setPulseResult s b c v
  by_cases hc : ∃ r, s.ValidChannel c r
  · obtain ⟨r, hr⟩ := hc
    obtain ⟨-, hrec, -⟩ := id hr
    have hpins : (s.ch.set c.toNat { r with pw := s.clampw v }).map Channel.pin = s.ch.map Channel.pin :=
      map_pin_set_self hrec rfl
    rw [hvalid r hr] at h
    cases h
    split
    · exact ⟨rfl, fun h0 hne => absurd h0 hne⟩
    · rename_i hw
      split
      · exact ⟨hpins, fun _ _ => ⟨‹_›, r, hr, hw⟩⟩
      · split
        · exact ⟨hpins, fun h0 hne => absurd h0 hne⟩
        · exact ⟨hpins, fun _ hne => absurd rfl hne⟩
  · rw [hinvalid (not_exists.1 hc)] at h
    cases h
    exact ⟨rfl, fun h0 hne => absurd h0 hne⟩

/-- DETACH fails and changes nothing else, or frees the slot of a valid channel and leaves nothing buffered (R125). -/
theorem detach_cases {s t : State} {c : U8} (h : exec (.detach c) s = .next t) :
    t = { s with rsp := failWord } ∨
    ∃ r, s.ValidChannel c r ∧ t.ch = s.ch.set c.toNat { r with pin := unassigned } ∧ t.rsp = okWord 0 ∧
      t.pendingUpdates = 0 := by
  obtain ⟨hinvalid, hvalid⟩ := detachResult s c
  by_cases hc : ∃ r, s.ValidChannel c r
  · obtain ⟨r, hr⟩ := hc
    obtain ⟨hanother, hlast⟩ := hvalid r hr
    refine .inr ⟨r, hr, ?_⟩
    by_cases hother : ∃ j d, j ≠ c.toNat ∧ s.ch[j]? = some d ∧ d.pin ≠ unassigned
    · rw [hanother hother] at h
      cases h
      exact ⟨rfl, rfl, rfl⟩
    · rw [hlast fun j d hj hd => not_not.1 fun hne => hother ⟨j, d, hj, hd, hne⟩] at h
      cases h
      exact ⟨rfl, rfl, rfl⟩
  · rw [hinvalid (not_exists.1 hc)] at h
    cases h
    exact .inl rfl

theorem incr_pendingUpdates {s t : State} (h : s.incr = .ok t) : t.pendingUpdates = s.pendingUpdates := by
  obtain ⟨-, -, ⟨-, rfl⟩ | ⟨es, -, rfl⟩⟩ := incr_eq_ok s t h
  · simp [rebuild_eq]
  · simp

theorem drain_ch {s t : State} (h : s.drain = .ok t) : t.ch = s.ch := by
  obtain ⟨x, y, -, -, rfl⟩ := (drain_eq_ok_iff s t).1 h
  exact (sequencerFrame_schedule s x.clear _ y x.pw).ch

theorem awaitCommit_ch {s t : State} (h : s.awaitCommit = .ok t) : t.ch = s.ch := by
  obtain ⟨x, -, ⟨-, -, hd⟩ | ⟨-, rfl⟩⟩ := (awaitCommit_eq_ok_iff s t).1 h
  · exact (drain_ch hd).trans (commit_ch s)
  · exact (sameEngine_schedule { s.commit with cursor := 0 } x s.minPulse).ch.trans (commit_ch s)

/-- Only ATTACH, ATTACHF and DETACH write a pin field of the table (R135). -/
theorem exec_pins {s t : State} {i : Instr} (h : exec i s = .next t) (hattach : ∀ pin, i ≠ .attach pin)
    (hattachf : ∀ pin mask, i ≠ .attachf pin mask) (hdetach : ∀ c, i ≠ .detach c) :
    t.ch.map Channel.pin = s.ch.map Channel.pin := by
  cases i with
  | attach pin => exact absurd rfl (hattach pin)
  | attachf pin mask => exact absurd rfl (hattachf pin mask)
  | detach c => exact absurd rfl (hdetach c)
  | setPulse b c v => exact (setPulse_pins_pending h).1
  | getPulse c => exact (getPulse_unbuffered h).pins
  | setFreq c mask => exact (setFreq_unbuffered h).pins
  | setBaseFreq hz => exact (setBaseFreq_unbuffered h).pins
  | setPeriod p =>
    cases h
    exact (setPeriodCommon_unbuffered s p).pins
  | forceResync => exact (forceResync_unbuffered h).pins
  | prepRebuild =>
    cases h
    rw [(prepareFrame_rebuild s _ _).ch]
  | prepIncr => rw [(prepareFrame_incr ((finish_eq_next_iff _ _).1 h)).ch]
  | expireAllHigh =>
    cases h
    rw [(sameEngine_allHigh s).ch]
  | expireAwaitCommit => rw [awaitCommit_ch ((finish_eq_next_iff _ _).1 h)]
  | expireDraining => rw [drain_ch ((finish_eq_next_iff _ _).1 h)]

/-! ### The number of assigned channels (R135) -/

/-- ATTACH and ATTACHF: a bound pin's channel keeps its pin, and a new binding takes a free slot. -/
theorem attachWith_assignedCount {s t : State} {pin mask : U8} {onBound : Nat → State}
    (hbound : ∀ i c, s.ch[i]? = some c → (onBound i).ch.map Channel.pin = s.ch.map Channel.pin)
    (h : s.attachWith pin mask onBound = .next t) :
    t.assignedCount = s.assignedCount + if t.rsp.getLsbD 31 = true ∧ ∀ d ∈ s.ch, d.pin ≠ pin then 1 else 0 := by
  rcases attachWith_cases h with rfl | ⟨i, c, hi, hc, rfl⟩ | ⟨hpin, hnew, i, c, hi, hc, rfl⟩
  · rw [if_neg fun hok => failWord_bit31 hok.1]
    rfl
  · rw [if_neg fun hok => hok.2 c (List.mem_of_getElem? hi) hc]
    exact assignedCount_of_pins (hbound i c hi)
  · rw [bindNew_eq, if_pos ⟨okWord_bit31 _, hnew⟩]
    have hset := countP_assigned_set hi ⟨pin, s.clampw (BitVec.ofNat 16 s.cfg.defaultPulse), mask⟩
    rwa [if_neg (by simp [hc]), if_pos ((assigned_iff _).2 hpin)] at hset

/-- DETACH: the slot that it frees was assigned. -/
theorem detach_assignedCount {s t : State} {c : U8} (h : exec (.detach c) s = .next t) :
    t.assignedCount + (if t.rsp.getLsbD 31 = true then 1 else 0) = s.assignedCount := by
  rcases detach_cases h with rfl | ⟨r, ⟨-, hrec, hpin⟩, hch, hrsp, -⟩
  · rw [if_neg failWord_bit31]
    rfl
  · rw [hrsp, if_pos (okWord_bit31 0), State.assignedCount, hch]
    have hset := countP_assigned_set hrec { r with pin := unassigned }
    rwa [if_pos ((assigned_iff r).2 hpin), if_neg (by simp [Channel.assigned])] at hset

/-- Settles O19. -/
theorem assignedCount : Obligations.AssignedCount := by
  intro s t i h
  refine ⟨?attach, fun c hi => detach_assignedCount (hi ▸ h), fun hattach hattachf hdetach =>
    assignedCount_of_pins (exec_pins h hattach hattachf hdetach)⟩
  case attach =>
    rintro pin (rfl | ⟨mask, rfl⟩)
    · exact attachWith_assignedCount (fun _ _ _ => rfl) ((exec_attach_eq pin s).symm.trans h)
    · exact attachWith_assignedCount (fun i c hi => (changeMask_unbuffered hi mask).pins)
        ((exec_attachf_eq pin mask s).symm.trans h)

/-! ### What makes an update buffered (R134) -/

theorem attachWith_pending {s t : State} {pin mask : U8} {onBound : Nat → State} (h0 : s.pendingUpdates = 0)
    (hbound : ∀ i c, s.ch[i]? = some c → (onBound i).pendingUpdates = 0)
    (h : s.attachWith pin mask onBound = .next t) : t.pendingUpdates = 0 := by
  rcases attachWith_cases h with rfl | ⟨i, c, hi, -, rfl⟩ | ⟨-, -, i, c, -, -, rfl⟩
  · exact h0
  · exact hbound i c hi
  · rfl

/-- A command that makes an update buffered is a buffered SET_PULSE that changes a width. -/
theorem command_buffers {s t : State} {i : Instr} {v : U32} (hi : encode i = .cmd v) (h : exec i s = .next t)
    (h0 : s.pendingUpdates = 0) (hne : t.pendingUpdates ≠ 0) :
    ∃ c v r, i = .setPulse true c v ∧ s.ValidChannel c r ∧ s.clampw v ≠ r.pw := by
  cases i with
  | attach pin => exact absurd (attachWith_pending h0 (fun _ _ _ => h0) ((exec_attach_eq pin s).symm.trans h)) hne
  | attachf pin mask =>
    exact absurd (attachWith_pending h0 (fun i c hi => (changeMask_unbuffered hi mask).pending h0)
      ((exec_attachf_eq pin mask s).symm.trans h)) hne
  | detach c =>
    rcases detach_cases h with rfl | ⟨r, -, -, -, hp⟩
    · exact absurd h0 hne
    · exact absurd hp hne
  | setPulse b c v =>
    obtain ⟨rfl, r, hr, hw⟩ := (setPulse_pins_pending h).2 h0 hne
    exact ⟨c, v, r, rfl, hr, hw⟩
  | getPulse c => exact absurd ((getPulse_unbuffered h).pending h0) hne
  | setFreq c mask => exact absurd ((setFreq_unbuffered h).pending h0) hne
  | setBaseFreq hz => exact absurd ((setBaseFreq_unbuffered h).pending h0) hne
  | setPeriod p =>
    cases h
    exact absurd ((setPeriodCommon_unbuffered s p).pending h0) hne
  | forceResync => exact absurd ((forceResync_unbuffered h).pending h0) hne
  | prepRebuild => cases hi
  | prepIncr => cases hi
  | expireAllHigh => cases hi
  | expireAwaitCommit => cases hi
  | expireDraining => cases hi

theorem phaseB_pending {s t : State} (h : s.phaseB = .next t) : t.pendingUpdates = s.pendingUpdates := by
  rcases phaseB_cases h with ⟨-, rfl⟩ | ⟨-, ht⟩
  · simp [rebuild_eq]
  · exact incr_pendingUpdates ht

theorem expiry_pending {s t : State} (h : s.expiry = .next t) : t.pendingUpdates = s.pendingUpdates := by
  rw [(expiry_frame h).pendingUpdates, committed_eq s]

/-- Of the moves only a command can make an update buffered. -/
theorem perform_buffers {s t : State} {m : Move} (h : s.perform m = .next t) (h0 : s.pendingUpdates = 0)
    (hne : t.pendingUpdates ≠ 0) :
    ∃ w c v r, m = .command w ∧ decode (.cmd w) = .ok (.setPulse true c v) ∧ s.ValidChannel c r ∧
      s.clampw v ≠ r.pw := by
  cases m with
  | command w =>
    change s.phaseA w = _ at h
    cases hd : decode (.cmd w) with
    | ok i =>
      rw [phaseA_of_decode s hd] at h
      obtain ⟨c, v, r, rfl, hr, hw⟩ := command_buffers (encode_of_decode hd) h h0 hne
      exact ⟨w, c, v, r, rfl, hd, hr, hw⟩
    | error e =>
      rw [phaseA_of_decode_error s hd] at h
      cases h
      exact absurd h0 hne
  | prepare => exact absurd ((phaseB_pending h).trans h0) hne
  | tick =>
    cases h
    exact absurd ((tick_pendingUpdates s).trans h0) hne
  | expire => exact absurd ((expiry_pending h).trans h0) hne
  | reset =>
    cases h
    exact absurd rfl hne

/-- Settles O55: a step drops a move, which changes nothing, or performs it. -/
theorem bufferedUpdatesBegin : Obligations.BufferedUpdatesBegin := by
  intro s t h h0 hne
  obtain ⟨ms, d, w, rfl | ⟨-, hp⟩⟩ := step_cases h
  · exact absurd h0 hne
  · exact perform_buffers (s := { s with script := ms, draws := d, prepWait := w }) hp h0 hne

end Sys2Proof.Machine

/-! ## What PREP.REBUILD answers (41_queue_builder.md R160 to R163, 45_bitmap_optimizer.md R236) -/

namespace Sys2Proof.Machine

/-- A pin operand other than the reserved one fits the pin vector (R7, R96). -/
theorem pin_toNat_lt {p : U8} (h : p ≠ unassigned) : p.toNat < 255 := by
  bv_omega

/-- A channel contributes its own pin to a slot, iff it is assigned and its mask has the slot (R236). -/
theorem slotBits_getLsbD (c : Channel) (k p : Nat) :
    (c.slotBits k).getLsbD p = true ↔ c.pin ≠ unassigned ∧ c.mask.getLsbD k = true ∧ c.pin.toNat = p := by
  have hguard : (c.assigned && c.mask.getLsbD k) = true ↔ c.pin ≠ unassigned ∧ c.mask.getLsbD k = true := by
    rw [Bool.and_eq_true, assigned_iff]
  rw [Channel.slotBits, ← and_assoc, ← hguard]
  split
  case isTrue h =>
    have hlt := pin_toNat_lt (hguard.1 h).1
    rw [pinbit_getLsbD, Bool.and_eq_true, decide_eq_true_eq, decide_eq_true_eq, and_iff_right h]
    omega
  case isFalse h => simp [h]

/-- The set bitmap of a slot holds the pins of the assigned channels whose mask has the slot (R236). -/
theorem setBitmaps_getLsbD (cs : List Channel) (k : Fin 8) (p : Nat) :
    ((setBitmaps cs).get k).getLsbD p = true ↔
      ∃ c ∈ cs, c.pin ≠ unassigned ∧ c.mask.getLsbD k = true ∧ c.pin.toNat = p := by
  have hget : (setBitmaps cs).get k = setBitmap cs k := Vector.getElem_ofFn k.isLt
  simp only [hget, setBitmap_getLsbD, List.any_eq_true, slotBits_getLsbD]

/-- The ids of a rebuild are distinct, so its order by width and then id is strict (R162). -/
theorem sortedEntries_strict {s : State} (hs : s.Shape) :
    s.sortedEntries.Pairwise (fun x y => x.pw < y.pw ∨ (x.pw = y.pw ∧ x.id < y.id)) := by
  have hne : s.sortedEntries.Pairwise (fun x y => x.id ≠ y.id) :=
    List.pairwise_map.1 ((sortedEntries_ids_perm s).nodup_iff.2 (assignedIds_nodup hs))
  refine ((sortedEntries_sorted s).and hne).imp fun ⟨hle, hid⟩ => ?_
  exact hle.imp_right fun ⟨hpw, hid'⟩ => ⟨hpw, by bv_omega⟩

/-- A rebuild holds, for each assigned channel, the entry of its id and width (R160, R161). -/
theorem mem_sortedEntries_iff_record {s : State} (hs : s.Shape) (x : Entry) :
    x ∈ s.sortedEntries ↔ ∃ c, s.ch[x.id.toNat]? = some c ∧ c.pin ≠ unassigned ∧ x = ⟨x.id, c.pw, 0, 1⟩ := by
  obtain ⟨hv, hlen, -⟩ := hs
  obtain ⟨-, hn, -⟩ := valid_bounds hv
  simp only [mem_sortedEntries, assigned_iff]
  constructor
  · rintro ⟨k, c, hk, hpin, rfl⟩
    have hlt : k < s.ch.length := (List.getElem?_eq_some_iff.1 hk).1
    exact ⟨c, by rwa [toEntry_id_toNat c k (by omega)], hpin, rfl⟩
  · rintro ⟨c, hk, hpin, hx⟩
    refine ⟨x.id.toNat, c, hk, hpin, ?_⟩
    rwa [Channel.toEntry, BitVec.ofNat_toNat, BitVec.setWidth_eq]

/-- Settles O20: the entries are the sorted collection of the assigned channels, and the whole effect is said once. -/
theorem rebuildResult : Obligations.RebuildResult := by
  refine fun s hs => ⟨clearOf_getLsbD s, s.sortedEntries, setBitmaps s.ch, sortedEntries_strict hs,
    mem_sortedEntries_iff_record hs, setBitmaps_getLsbD s.ch, ?_⟩
  change Host.Outcome.next (s.rebuild s.plan.start s.plan.resync) = _
  rw [rebuild_eq, setBuf_eq]
  cases s.active <;> rfl

end Sys2Proof.Machine

/-! ## What PREP.INCR answers (42_incremental_updater.md R175 to R182) -/

namespace Sys2Proof.Machine

/-! ### The whole next state -/

/-- Publishing writes the non-active buffer, the flag and the plan, and nothing else (R160, R175, R192). -/
theorem published_eq (s : State) (q : Buffer) :
    s.published q = { s with
      q0 := if s.active then q else s.q0
      q1 := if s.active then s.q1 else q
      switchPending := true
      plan := Plan.idle } := by
  rw [State.published, setBuf_eq]
  cases s.active <;> rfl

/-- From a source with a sentinel and legal ids, PREP.INCR publishes the updated buffer (R175). -/
theorem exec_prepIncr_eq_published {s : State} (hrest : s.incrSource.rest ≠ [])
    (hid : ∀ y ∈ s.incrSource.live, y.id.toNat < s.cfg.n) :
    exec .prepIncr s = .next (s.published s.updatedBuffer) := by
  obtain ⟨t, ht⟩ := incr_goes s hrest hid
  rw [← incr_eq_published ht]
  exact (finish_eq_next_iff _ _).2 ht

/-- A PREP.REBUILD without start and resync publishes the rebuilt buffer (R160). -/
theorem exec_prepRebuild_eq_published {s : State} (hstart : s.plan.start = false) (hresync : s.plan.resync = false) :
    exec .prepRebuild s = .next (s.published (s.rebuiltBuffer s.idleBuf)) := by
  change Host.Outcome.next (s.rebuild s.plan.start s.plan.resync) = _
  rw [hstart, hresync, rebuild_eq_published]

/-- The updated buffer of a source without the channel is the rebuild of the source (R181). -/
theorem updatedBuffer_of_no_entry {s : State} (h : ∀ y ∈ s.incrSource.live, y.id ≠ s.plan.ch) :
    s.updatedBuffer = s.rebuiltBuffer s.incrSource := by
  rw [State.updatedBuffer, (updateWidth_eq_none_iff _ _ _).2 h]

/-- The updated buffer of a source in which the update finds its entry (R175 to R182). -/
theorem updatedBuffer_of_entry {s : State} {es : List Entry}
    (h : updateWidth s.plan.ch s.plan.pw s.incrSource.live = some es) :
    s.updatedBuffer = ⟨s.annotate es ++ s.incrSource.rest, s.incrSource.set⟩ := by
  rw [State.updatedBuffer, h]

/-- Settles O24: both publish the rebuild of the source, one from the state and one from the copy. -/
theorem incrFallsBackToRebuild : Obligations.IncrFallsBackToRebuild := by
  intro s hrest hlive
  refine ⟨_, exec_prepIncr_eq_published hrest fun y hy => (hlive y hy).2, ?_⟩
  rw [updatedBuffer_of_no_entry fun y hy => (hlive y hy).1, exec_prepRebuild_eq_published rfl rfl]
  cases ha : s.active <;> simp only [published_eq, ha] <;> rfl

/-! ### Where the changed entry stops (R178, R180) -/

/-- The update takes the first entry of the channel (R178). -/
theorem updateWidth_of_first {c : U8} (w : U16) {left right : List Entry} {x : Entry} (hx : x.id = c)
    (hleft : ∀ y ∈ left, y.id ≠ c) :
    updateWidth c w (left ++ x :: right) = some (bubble left { x with pw := w } right) := by
  have hpass : ∀ y ∈ left, (y.id != c) = true := by simpa using hleft
  rw [updateWidth, List.dropWhile_append_of_pos hpass, List.takeWhile_append_of_pos hpass]
  simp [hx]

/-- "At most one of the two loops does any swap" (R180): the entry passes strictly wider entries on its left, or else
strictly narrower ones on its right. -/
theorem bubble_passes (left right : List Entry) (x : Entry) :
    ∃ a b, bubble left x right = a ++ x :: b ∧ a ++ b = left ++ right ∧
      (∀ y ∈ left.drop a.length, x.pw < y.pw) ∧ ∀ y ∈ right.take (a.length - left.length), y.pw < x.pw := by
  obtain ⟨wider, hl, hl2, hwider, -⟩ := bubbleLeft_spec x.pw left.reverse right
  obtain ⟨narrower, hr, hr1, hnarrower, -⟩ := bubbleRight_spec x.pw (bubbleLeft x.pw left.reverse right).1
    (bubbleLeft x.pw left.reverse right).2
  have hleft : left = (bubbleLeft x.pw left.reverse right).1.reverse ++ wider.reverse := by
    rw [← List.reverse_append, ← hl, List.reverse_reverse]
  refine ⟨_, _, rfl, ?_⟩
  rw [hr1, List.reverse_append, List.reverse_reverse]
  rw [hl2] at hr ⊢
  generalize (bubbleRight x.pw (bubbleLeft x.pw left.reverse right).1 _).2 = rest at hr ⊢
  generalize (bubbleLeft x.pw left.reverse right).1.reverse = kept at hleft ⊢
  cases hrev : wider.reverse with
  | nil =>
    rw [hrev] at hr hleft
    subst hleft hr
    have hdrop : kept.drop (kept.length + narrower.length) = [] := List.drop_of_length_le (Nat.le_add_right ..)
    simpa [hdrop] using hnarrower
  | cons z zs =>
    have hz : x.pw < z.pw := hwider z (List.mem_reverse.1 (hrev ▸ List.mem_cons_self ..))
    have hnone : narrower = [] := by
      cases narrower with
      | nil => rfl
      | cons y ys =>
        rw [hrev] at hr
        obtain rfl : z = y := (List.cons.inj hr).1
        exact absurd (hnarrower z (List.mem_cons_self ..)) (BitVec.lt_asymm hz)
    subst hleft hnone
    rw [List.nil_append] at hr
    subst hr
    simpa using hwider

/-- Settles O23: the source is cut at its sentinel, and the changed entry bubbles to its place. -/
theorem incrResult : Obligations.IncrResult := by
  intro s left right tl x z hsrc hz hids hx hleft hsorted
  refine ⟨clearOf_getLsbD s, ?_⟩
  have hbuf : s.incrSource = ⟨left ++ x :: right ++ z :: tl, s.incrSource.set⟩ := by rw [← hsrc]
  have hne : ∀ y ∈ left ++ x :: right, y.id ≠ endId := fun y hy => (hids y hy).1
  have hlive : s.incrSource.live = left ++ x :: right := by rw [hbuf, live_mk _ _ _ _ hne hz]
  have hrest : s.incrSource.rest = z :: tl := by rw [hbuf, rest_mk _ _ _ _ hne hz]
  have hupdate : updateWidth s.plan.ch s.plan.pw s.incrSource.live =
      some (bubble left { x with pw := s.plan.pw } right) := by rw [hlive, updateWidth_of_first _ hx hleft]
  obtain ⟨a, b, hb, hab, hwider, hnarrower⟩ := bubble_passes left right { x with pw := s.plan.pw }
  refine ⟨a, b, hab, hb ▸ bubble_sorted left right _ hsorted, hwider, hnarrower, ?_⟩
  rw [exec_prepIncr_eq_published (by simp [hrest]) fun y hy => (hids y (hlive ▸ hy)).2, published_eq,
    updatedBuffer_of_entry hupdate, hb, hrest]
  rfl

end Sys2Proof.Machine

/-! ## The groups of an annotated queue (45_bitmap_optimizer.md R238 to R240)

annotate in closed form: an entry's skip count and clear bitmap are read off the queue from that entry on. -/

namespace Sys2Proof.Machine

/-- The size of the first group of a queue with these widths: a chain of neighbours less than JOIN apart (R238). -/
def groupLen (join : Nat) : List U16 → Nat
  | [] => 0
  | [_] => 1
  | v :: w :: ws => if (w - v).toNat < join then groupLen join (w :: ws) + 1 else 1

/-- The clear bitmap of some channels together (R235, R237). -/
def clearUnion (pinsOf : U8 → Pins) (ids : List U8) : Pins := (ids.map pinsOf).foldr (· ||| ·) 0

/-- The order of the channels in a group has no effect on its bitmap. -/
theorem clearUnion_perm (f : U8 → Pins) {ids ids' : List U8} (h : ids.Perm ids') : clearUnion f ids = clearUnion f ids' :=
  (h.map f).foldr_eq 0

/-- `skip` is the size of the group that the entry begins, `clear` the pins of its channels (R238). -/
theorem annotate_cons_eq (j : Nat) (f : U8 → Pins) (x : Entry) (xs : List Entry) :
    annotate j f (x :: xs) =
      { x with
        clear := clearUnion f (((x :: xs).map Entry.id).take (groupLen j ((x :: xs).map Entry.pw)))
        skip := BitVec.ofNat 8 (groupLen j ((x :: xs).map Entry.pw)) } :: annotate j f xs := by
  induction xs generalizing x with
  | nil => simp [annotate, groupLen, clearUnion]
  | cons y ys ih =>
    rw [annotate, ih y]
    simp only [joins, decide_eq_true_eq, List.map_cons, groupLen]
    split
    case isTrue => simp [clearUnion, BitVec.or_comm, BitVec.ofNat_add]
    case isFalse => simp [clearUnion]

/-- annotate of the end of a queue is the end of the annotated queue (R238). -/
theorem annotate_drop (j : Nat) (f : U8 → Pins) (k : Nat) (es : List Entry) :
    (annotate j f es).drop k = annotate j f (es.drop k) := by
  induction es generalizing k with
  | nil => simp [annotate]
  | cons x xs ih =>
    cases k with
    | zero => rfl
    | succ k => rw [annotate_cons_eq, List.drop_succ_cons, List.drop_succ_cons, ih]

/-- What an annotated queue holds at an index, read off the ids and widths from there on (R238, R241). -/
theorem annotated_getElem? {j : Nat} {f : U8 → Pins} {es : List Entry} (h : es = annotate j f es) {k : Nat} {x : Entry}
    (hx : es[k]? = some x) :
    x.clear = clearUnion f (((es.map Entry.id).drop k).take (groupLen j ((es.map Entry.pw).drop k))) ∧
    x.skip = BitVec.ofNat 8 (groupLen j ((es.map Entry.pw).drop k)) := by
  obtain ⟨hk, rfl⟩ := List.getElem?_eq_some_iff.1 hx
  have hdrop : es.drop k = annotate j f (es.drop k) := by rw [← annotate_drop, ← h]
  rw [List.drop_eq_getElem_cons hk, annotate_cons_eq] at hdrop
  have hhead := (List.cons.inj hdrop).1
  rw [← List.drop_eq_getElem_cons hk, List.map_drop, List.map_drop] at hhead
  exact ⟨congrArg Entry.clear hhead, congrArg Entry.skip hhead⟩

/-! ### Where a group begins and ends -/

/-- Whether an index is a group head is said by the widths alone (R238, R219). -/
theorem isHead_succ_iff (j : Nat) (es : List Entry) (k : Nat) :
    isHead j es (k + 1) = true ↔
      ∀ v w, (es.map Entry.pw)[k]? = some v → (es.map Entry.pw)[k + 1]? = some w → ¬ (w - v).toNat < j := by
  simp only [List.getElem?_map, Option.map_eq_some_iff]
  rw [isHead]
  split
  next x y hx hy => simp [hx, hy, joins]
  next hnone =>
    refine iff_of_true rfl ?_
    rintro - - ⟨x, hx, rfl⟩ ⟨y, hy, rfl⟩
    exact absurd hy (hnone x y hx)

theorem isHead_congr (j : Nat) {es fs : List Entry} (h : es.map Entry.pw = fs.map Entry.pw) (k : Nat) :
    isHead j es k = isHead j fs k := by
  cases k with
  | zero => rfl
  | succ k => rw [Bool.eq_iff_iff, isHead_succ_iff, isHead_succ_iff, h]

theorem groupLen_pos (j : Nat) (w : U16) (ws : List U16) : 0 < groupLen j (w :: ws) := by
  cases ws with
  | nil => exact Nat.one_pos
  | cons v vs =>
    rw [groupLen]
    split <;> exact Nat.succ_pos _

/-- A group ends before the first neighbour that is JOIN or more wider (R238). -/
theorem not_lt_join_of_groupLen {j : Nat} {ws : List U16} {k : Nat} (hk : groupLen j ws = k + 1) {v w : U16}
    (hv : ws[k]? = some v) (hw : ws[k + 1]? = some w) : ¬ (w - v).toNat < j := by
  induction ws generalizing k with
  | nil => simp at hv
  | cons a ws ih =>
    cases ws with
    | nil => simp at hw
    | cons b bs =>
      rw [groupLen] at hk
      split at hk
      case isTrue =>
        obtain ⟨n, rfl⟩ := Nat.exists_eq_succ_of_ne_zero (Nat.succ.inj hk ▸ (groupLen_pos j b bs).ne')
        exact ih (Nat.succ.inj hk) hv hw
      case isFalse hge =>
        obtain rfl : k = 0 := by omega
        simp only [List.getElem?_cons_zero, List.getElem?_cons_succ, Option.some.injEq] at hv hw
        rwa [← hv, ← hw]

/-- A sorted list cut between two different neighbours has no value on both sides. -/
theorem disjoint_of_neighbours_ne {ws : List U16} (hs : ws.Pairwise (· ≤ ·)) {k : Nat}
    (hne : ∀ v w, ws[k]? = some v → ws[k + 1]? = some w → v ≠ w) : (ws.take (k + 1)).Disjoint (ws.drop (k + 1)) := by
  have hmono : ∀ (i m : Nat) (hi : i < ws.length) (hm : m < ws.length), i ≤ m → ws[i] ≤ ws[m] := by
    intro i m hi hm him
    rcases Nat.eq_or_lt_of_le him with rfl | hlt
    · exact BitVec.le_refl _
    · exact List.pairwise_iff_getElem.1 hs i m hi hm hlt
  intro a hleft hright
  obtain ⟨i, hi, rfl⟩ := List.mem_take_iff_getElem.1 hleft
  obtain ⟨m, hm, heq⟩ := List.mem_drop_iff_getElem.1 hright
  have hk : k + 1 < ws.length := by omega
  have hdown : ws[k + 1] ≤ ws[k] :=
    calc ws[k + 1] ≤ ws[k + 1 + m] := hmono _ _ _ (by omega) (by omega)
      _ = ws[i] := heq
      _ ≤ ws[k] := hmono _ _ _ _ (by omega)
  exact hne _ _ (List.getElem?_eq_getElem (by omega)) (List.getElem?_eq_getElem hk)
    (BitVec.le_antisymm (hmono _ _ _ _ (by omega)) hdown)

theorem ne_of_not_lt_join {j : Nat} (hj : 1 ≤ j) {v w : U16} (h : ¬ (w - v).toNat < j) : v ≠ w := by
  rintro rfl
  rw [BitVec.sub_self, BitVec.toNat_zero] at h
  exact h hj

/-- Equal widths are never split by the beginning of a group (R240). -/
theorem disjoint_of_isHead {j : Nat} (hj : 1 ≤ j) {es : List Entry} (hs : (es.map Entry.pw).Pairwise (· ≤ ·)) {k : Nat}
    (h : isHead j es k = true) : ((es.map Entry.pw).take k).Disjoint ((es.map Entry.pw).drop k) := by
  cases k with
  | zero => exact List.disjoint_nil_left _
  | succ k =>
    exact disjoint_of_neighbours_ne hs fun v w hv hw => ne_of_not_lt_join hj ((isHead_succ_iff j es k).1 h v w hv hw)

/-- Equal widths are never split by the end of a group (R240). -/
theorem disjoint_of_groupLen {j : Nat} (hj : 1 ≤ j) {ws : List U16} (hs : ws.Pairwise (· ≤ ·)) :
    (ws.take (groupLen j ws)).Disjoint (ws.drop (groupLen j ws)) := by
  cases hk : groupLen j ws with
  | zero => exact List.disjoint_nil_left _
  | succ k =>
    exact disjoint_of_neighbours_ne hs fun v w hv hw => ne_of_not_lt_join hj (not_lt_join_of_groupLen hk hv hw)

end Sys2Proof.Machine

/-! ## An update is a rebuild up to the order of equal widths (42_incremental_updater.md R183) -/

namespace Sys2Proof.Machine

/-! ### Two queues of the same channels and widths -/

/-- Where no value stands on both sides of a cut, the values of the left side pick that side out of the list. -/
theorem filter_of_cut {α β : Type} [DecidableEq β] (g : α → β) {l : List α} {n : Nat}
    (hcut : ((l.map g).take n).Disjoint ((l.map g).drop n)) :
    l.filter (fun x => g x ∈ (l.map g).take n) = l.take n := by
  have hleft : (l.take n).filter (fun x => g x ∈ (l.map g).take n) = l.take n := by
    refine List.filter_eq_self.2 fun x hx => decide_eq_true ?_
    rw [← List.map_take]
    exact List.mem_map_of_mem hx
  have hright : (l.drop n).filter (fun x => g x ∈ (l.map g).take n) = [] := by
    refine List.filter_eq_nil_iff.2 fun x hx hmem => hcut (of_decide_eq_true hmem) ?_
    rw [← List.map_drop]
    exact List.mem_map_of_mem hx
  have happend := List.filter_append (p := fun x => g x ∈ (l.map g).take n) (l.take n) (l.drop n)
  rwa [List.take_append_drop, hleft, hright, List.append_nil] at happend

/-- A cut that no value straddles cuts two orders of one list into the same two parts. -/
theorem perm_of_cut {α β : Type} [DecidableEq β] (g : α → β) {l m : List α} (hp : l.Perm m) (hg : l.map g = m.map g)
    {n : Nat} (hcut : ((l.map g).take n).Disjoint ((l.map g).drop n)) :
    (l.take n).Perm (m.take n) ∧ (l.drop n).Perm (m.drop n) := by
  have htake : (l.take n).Perm (m.take n) := by
    rw [← filter_of_cut g hcut, ← filter_of_cut g (l := m) (hg ▸ hcut), hg]
    exact hp.filter _
  refine ⟨htake, (List.perm_append_left_iff (m.take n)).1 ((htake.symm.append_right _).trans ?_)⟩
  rwa [List.take_append_drop, List.take_append_drop]

theorem map_key_fst (es : List Entry) : (es.map Entry.key).map Prod.fst = es.map Entry.id := List.map_map

theorem map_key_snd (es : List Entry) : (es.map Entry.key).map Prod.snd = es.map Entry.pw := List.map_map

/-- Sorted queues with the same pairs have the same widths at the same indices (R183). -/
theorem map_pw_eq {es fs : List Entry} (hsorted : (es.map Entry.pw).Pairwise (· ≤ ·))
    (hsorted' : (fs.map Entry.pw).Pairwise (· ≤ ·)) (hkeys : (es.map Entry.key).Perm (fs.map Entry.key)) :
    es.map Entry.pw = fs.map Entry.pw := by
  have hperm := hkeys.map Prod.snd
  rw [map_key_snd, map_key_snd] at hperm
  exact hperm.eq_of_pairwise (fun _ _ _ _ => BitVec.le_antisymm) hsorted hsorted'

section

/- Two annotated queues with the same (id, width) pairs and the same sorted widths. -/
variable {j : Nat} {f : U8 → Pins} {es fs : List Entry} (hes : es = annotate j f es) (hfs : fs = annotate j f fs)
  (hsorted : (es.map Entry.pw).Pairwise (· ≤ ·)) (hkeys : (es.map Entry.key).Perm (fs.map Entry.key))
  (hpw : es.map Entry.pw = fs.map Entry.pw)

include hes hfs hsorted hkeys hpw

/-- The same widths at the same indices give the same groups: a head has the same bitmap and the same count (R183). -/
theorem group_eq (hj : 1 ≤ j) {k : Nat} {x y : Entry} (hx : es[k]? = some x) (hy : fs[k]? = some y)
    (hhead : isHead j es k = true) : x.clear = y.clear ∧ x.skip = y.skip := by
  obtain ⟨hxclear, hxskip⟩ := annotated_getElem? hes hx
  obtain ⟨hyclear, hyskip⟩ := annotated_getElem? hfs hy
  rw [hxclear, hyclear, hxskip, hyskip, ← hpw]
  refine ⟨clearUnion_perm f ?_, rfl⟩
  have hcut := disjoint_of_isHead hj hsorted hhead
  have hcut' := disjoint_of_groupLen hj (hsorted.drop (i := k))
  rw [← map_key_snd] at hcut hcut'
  rw [← List.map_drop] at hcut'
  have hwidths : (es.map Entry.key).map Prod.snd = (fs.map Entry.key).map Prod.snd := by
    rw [map_key_snd, map_key_snd, hpw]
  obtain ⟨-, hdrop⟩ := perm_of_cut Prod.snd hkeys hwidths hcut
  obtain ⟨htake, -⟩ := perm_of_cut Prod.snd hdrop (by rw [List.map_drop, List.map_drop, hwidths]) hcut'
  have hids := htake.map Prod.fst
  simpa only [List.map_take, List.map_drop, map_key_fst, map_key_snd] using hids

/-- Where all widths differ there is only one order (R183). -/
theorem eq_of_nodup_pw (hnodup : (es.map Entry.pw).Nodup) : es = fs := by
  rw [← map_key_snd] at hnodup
  have hinj := List.inj_on_of_nodup_map hnodup
  have hkey : es.map Entry.key = fs.map Entry.key :=
    hkeys.eq_of_pairwise (le := fun a b => a.2 ≤ b.2)
      (fun a b ha hb hab hba => hinj ha (hkeys.mem_iff.2 hb) (BitVec.le_antisymm hab hba))
      (List.pairwise_map.2 (List.pairwise_map.1 hsorted))
      (List.pairwise_map.2 (List.pairwise_map.1 (hpw ▸ hsorted)))
  rw [hes, hfs, annotate_congr j f es fs hkey]

end

/-! ### The two preparations from an invariant state -/

@[simp] theorem published_activeBuf (s : State) (q : Buffer) : (s.published q).activeBuf = s.activeBuf :=
  (prepared_setBuf s q).1

@[simp] theorem published_idleBuf (s : State) (q : Buffer) : (s.published q).idleBuf = q :=
  (prepared_setBuf s q).2

/-- Two published buffers make the same state but for these buffers. -/
theorem published_withBuffers (s : State) (q r : Buffer) :
    { s.published q with q0 := (s.published r).q0, q1 := (s.published r).q1 } = s.published r := by
  simp only [published_eq]

/-- Queues that mirror the table, and have its widths, have the same (id, width) pairs (R48). -/
theorem keys_perm_of_mirrors {s : State} {q r : Buffer} (hq : s.Mirrors q) (hr : s.Mirrors r)
    (hqw : ∀ x ∈ q.live, x.pw = (s.channel x.id).pw) (hrw : ∀ x ∈ r.live, x.pw = (s.channel x.id).pw) :
    (q.live.map Entry.key).Perm (r.live.map Entry.key) := by
  have hkeys : ∀ es : List Entry, (∀ x ∈ es, x.pw = (s.channel x.id).pw) →
      es.map Entry.key = (es.map Entry.id).map fun id => (id, (s.channel id).pw) := by
    intro es h
    rw [List.map_map]
    exact List.map_congr_left fun x hx => congrArg (Prod.mk x.id) (h x hx)
  rw [hkeys _ hqw, hkeys _ hrw]
  exact (hq.1.trans hr.1.symm).map _

/-- The updated buffer of an invariant state is complete and mirrors the table (R48, R178). -/
theorem updatedBuffer_facts {s : State} (h : s.Inv) (hkind : s.plan.kind = 2) :
    s.updatedBuffer.Complete s.cfg ∧ s.Mirrors s.updatedBuffer ∧
      ∀ x ∈ s.updatedBuffer.live, x.pw = (s.channel x.id).pw := by
  obtain ⟨hshape, -, hpins, hband, -, -, ⟨-, -, -, -, hincr⟩, -⟩ := id h
  obtain ⟨hvalid, hpw, hm, hw⟩ := hincr hkind
  obtain ⟨es, hes, hq, hm', hw', -⟩ := updated_facts hshape hpins hband (incrSource_complete h) hm hvalid hw
  rw [updatedBuffer_of_entry (hpw ▸ hes)]
  exact ⟨hq, hm', hw'⟩

/-- Settles O25: both buffers are complete and mirror the table, so that they are two orders of one list. -/
theorem incrEqualsRebuild : Obligations.IncrEqualsRebuild := by
  intro s h hkind
  obtain ⟨hshape, -, hpins, hband, -, -, ⟨hstart, hresync, -⟩, -⟩ := id h
  obtain ⟨hrest, hids⟩ : s.incrSource.rest ≠ [] ∧ ∀ x ∈ s.incrSource.live, x.id.toNat < s.cfg.n := by
    obtain ⟨hend, -, -, -, -, hids, -⟩ := incrSource_complete h
    exact ⟨fun hnil => by simp [hnil] at hend, hids⟩
  have hnostart : s.plan.start = false := by simpa [hkind] using hstart
  have hnoresync : s.plan.resync = false := by simpa [hkind] using hresync
  obtain ⟨⟨hqend, hqsorted, -⟩, hqm, hqw⟩ := updatedBuffer_facts h hkind
  obtain ⟨hrend, hrsorted, -⟩ := rebuilt_complete hshape hpins hband s.idleBuf
  have hrm := rebuilt_mirrors hshape s.idleBuf
  have hkeys := keys_perm_of_mirrors hqm hrm hqw (rebuilt_widths hshape s.idleBuf)
  obtain ⟨-, hqperiod, hqset, hqann⟩ := hqm
  obtain ⟨-, hrperiod, hrset, hrann⟩ := hrm
  have hsorted := List.pairwise_map.2 hqsorted
  have hpw := map_pw_eq hsorted (List.pairwise_map.2 hrsorted) hkeys
  have hjoin : 1 ≤ s.cfg.join := by
    obtain ⟨-, -, -, -, -, -, hj, -⟩ := valid_bounds hshape.1
    exact hj
  refine ⟨_, _, exec_prepIncr_eq_published hrest hids, exec_prepRebuild_eq_published hnostart hnoresync,
    published_withBuffers s _ _, ?_⟩
  rw [published_activeBuf, published_activeBuf, published_idleBuf, published_idleBuf]
  refine ⟨rfl, hkeys, hpw, by rw [hqend, hrend, hqperiod, hrperiod], by rw [hqset, hrset], fun k x y hx hy => ?_,
    eq_of_nodup_pw hqann hrann hsorted hkeys hpw⟩
  exact ⟨isHead_congr _ hpw k, group_eq hqann hrann hsorted hkeys hpw hjoin hx hy⟩

end Sys2Proof.Machine

/-! ## The commit point (43_switch_controller.md R193 to R195) -/

namespace Sys2Proof.Machine

/-- The AWAIT_COMMIT arm, in any phase, writes no more of what the command engine reads than its commit does (R66,
R195, R209). -/
theorem awaitCommit_frame {s t : State} (h : s.awaitCommit = .ok t) : SequencerFrame s.commit t := by
  obtain ⟨x, -, ⟨-, -, hd⟩ | ⟨-, rfl⟩⟩ := (awaitCommit_eq_ok_iff s t).1 h
  · obtain ⟨x, y, -, -, rfl⟩ := (drain_eq_ok_iff _ t).1 hd
    exact sequencerFrame_schedule s.commit x.clear _ y x.pw
  · rw [← fall_none]
    exact sequencerFrame_schedule s.commit 0 0 x s.minPulse

/-- A commit makes the buffer prepared last the active one (R48, R194). -/
theorem commit_activeBuf_eq_latest (s : State) : s.commit.activeBuf = s.latest := by
  rcases commit_cases s with ⟨hp, e⟩ | ⟨hp, e⟩ <;> rw [e, State.latest, hp] <;> rfl

/-- A swap is pending only while no preparation is owed (R43, R122). -/
theorem not_busy_of_pending {s : State} (h : s.PlanOk) (hp : s.switchPending = true) : s.busy = false := by
  obtain ⟨-, -, hidle, -⟩ := h
  exact Bool.eq_false_iff.2 fun hb => absurd hp (by simp [(hidle hb).1])

/-- Settles O30: the arm's one write to the Switch Controller is the commit. -/
theorem commitPoint : Obligations.CommitPoint := by
  intro s t h
  have hf := awaitCommit_frame ((finish_eq_next_iff _ _).1 h)
  refine ⟨hf.switchPending.trans (commit_switchPending s), ?active, hf.q0.trans (commit_q0 s),
    hf.q1.trans (commit_q1 s)⟩
  case active =>
    rw [hf.active, commit_active]
    cases s.switchPending <;> simp

/-- Settles O31: the buffer made active is the one prepared last, which mirrors the table because no preparation is
owed, and the arm writes neither the table nor a buffer. -/
theorem commitAdoptsLatest : Obligations.CommitAdoptsLatest := by
  intro s t hinv hp h
  have hf := awaitCommit_frame ((finish_eq_next_iff _ _).1 h)
  have hch : t.ch = s.ch := hf.ch.trans (commit_ch s)
  have hchannel : t.channel = s.channel := funext fun c => by rw [State.channel, State.channel, hch]
  obtain ⟨-, -, -, -, -, -, hplan, -, hlatest, -⟩ := hinv
  obtain ⟨hm, hw⟩ := hlatest (not_busy_of_pending hplan hp)
  obtain ⟨hids, hperiod, hset, -⟩ : t.Mirrors s.latest :=
    mirrors_congr (hf.cfg.trans (commit_cfg s)) (hf.periodWidth.trans (commit_periodWidth s)) (by rw [hch]) hm
  rw [hf.activeBuf, commit_activeBuf_eq_latest, hf.pendingUpdates, commit_pendingUpdates, hchannel]
  exact ⟨hids, hperiod, hset, hw⟩

end Sys2Proof.Machine

/-! ## The three arms of the expiry step and the tick, whole (44_sequencer.md R206 to R211, R218) -/

namespace Sys2Proof.Machine

theorem satsub_of_le {a b : U16} (h : b ≤ a) : satsub a b = a - b := if_pos h

theorem satsub_eq_zero_iff (a b : U16) : satsub a b = 0 ↔ a ≤ b := by
  unfold satsub
  split
  · bv_omega
  · exact iff_of_true rfl (by bv_omega)

/-- Everything that scheduling an entry writes (R209 to R211). -/
theorem schedule_eq (s : State) (x : Entry) (prev : U16) :
    s.schedule x prev =
      if x.id = endId then { s with
        gpioOut := s.gpioOut &&& ~~~ s.asserted
        asserted := 0
        timerCnt := satsub x.pw prev
        late := 0
        phase := 0 }
      else { s with timerCnt := satsub x.pw prev, late := 0, phase := 2 } := rfl

/-- Everything that a commit writes (R193). -/
theorem commit_eq (s : State) :
    s.commit = { s with switchPending := false, active := s.active != s.switchPending } := by
  rcases commit_cases s with ⟨hp, e⟩ | ⟨hp, e⟩
  · rw [e, hp, Bool.bne_true]
  · have hsame : (s.active != s.switchPending) = s.active := by rw [hp, Bool.bne_false]
    rw [e, hsame, ← hp]

/-- The cursor's sum is exact in the model and wraps in a word of 8 bits: the same word (log 15). -/
theorem ofNat_toNat_add (a b : U8) : BitVec.ofNat 8 (a.toNat + b.toNat) = a + b := by
  rw [BitVec.ofNat_add, BitVec.ofNat_toNat, BitVec.ofNat_toNat, BitVec.setWidth_eq, BitVec.setWidth_eq]

/-- Settles O27: the arm's whole effect is its definition, the set bitmap being that of the slot. -/
theorem allHighResult : Obligations.AllHighResult := by
  intro s m hm
  obtain ⟨-, rfl⟩ := Vector.getElem?_eq_some_iff.1 hm
  rfl

/-- Settles O29: the arm is drain, which schedules the entry that the cursor moves to. -/
theorem drainingResult : Obligations.DrainingResult := by
  intro s x y hx hy
  refine (finish_eq_next_iff _ _).2 ((drain_eq_ok_iff s _).2 ⟨x, y, hx, hy, ?_⟩)
  rw [schedule_eq, ofNat_toNat_add]

/-- Settles O28: the first entry of the committed buffer is scheduled, or drained at once if its width is MIN_PULSE. -/
theorem awaitCommitResult : Obligations.AwaitCommitResult := by
  intro s x side q hx
  have hq : s.commit.activeBuf = q := commit_activeBuf s
  have hfirst : s.commit.activeBuf.e[0]? = some x := by rw [hq, hx]
  have hnext : ∀ t, s.awaitCommit = .ok t → exec .expireAwaitCommit s = .next t :=
    fun t => (finish_eq_next_iff _ t).2
  refine ⟨fun hend => ?empty, fun hid hlt => ?wide, fun hid hle y hy => ?drain⟩
  case empty =>
    refine hnext _ ((awaitCommit_eq_ok_iff s _).2 ⟨x, hfirst, .inr ⟨fun h => h.1 hend, ?_⟩⟩)
    rw [schedule_eq, if_pos hend, commit_eq]
  case wide =>
    have hwide : satsub x.pw s.minPulse ≠ 0 :=
      fun h => BitVec.not_lt.2 ((satsub_eq_zero_iff _ _).1 h) hlt
    refine hnext _ ((awaitCommit_eq_ok_iff s _).2 ⟨x, hfirst, .inr ⟨fun h => hwide h.2, ?_⟩⟩)
    rw [schedule_eq, if_neg hid, commit_eq, satsub_of_le (BitVec.le_of_lt hlt)]
  case drain =>
    refine hnext _ ((awaitCommit_eq_ok_iff s _).2 ⟨x, hfirst, .inl ⟨hid, (satsub_eq_zero_iff _ _).2 hle, ?_⟩⟩)
    refine (drain_eq_ok_iff _ _).2 ⟨x, y, hfirst, ?_, ?_⟩
    · change s.commit.activeBuf.e[0 + x.skip.toNat]? = some y
      rw [Nat.zero_add, hq, hy]
    · have hzero : (0 : U8) + x.skip = x.skip := BitVec.zero_add _
      simp only [schedule_eq, commit_eq, ofNat_toNat_add, hzero, side]

/-- Settles O34: the tick is enabled, and no expiry is due that it would delay. -/
theorem tickResult : Obligations.TickResult := by
  intro s ms hv hs hdue
  have hnot : State.due { s with script := ms } = false :=
    Bool.eq_false_iff.2 (mt (due_eq_true_iff _).1 hdue)
  rw [step_of_script hv hs ((tickEnabled_eq_true_iff _).2 (.inl hdue)), State.perform, State.tick, hnot]
  rfl

/-- Settles O35: the tick is enabled iff the lateness is below LAT_MAX, and the due expiry stays due. -/
theorem lateTickResult : Obligations.LateTickResult := by
  intro s ms hv hs hrun hcnt
  have hdue : State.due { s with script := ms } = true := (due_eq_true_iff _).2 ⟨hrun, hcnt⟩
  by_cases hlate : s.late < s.cfg.latMax
  · rw [if_pos hlate, step_of_script hv hs ((tickEnabled_eq_true_iff _).2 (.inr hlate)), State.perform, State.tick,
      if_pos hdue]
  · rw [if_neg hlate]
    exact step_of_script_not_enabled hv hs fun he =>
      ((tickEnabled_eq_true_iff _).1 he).elim (fun h => h ⟨hrun, hcnt⟩) hlate

end Sys2Proof.Machine

/-! ## The events of a complete queue (44_sequencer.md R219, R220; 45_bitmap_optimizer.md R238)

The events that the sequencer schedules on a complete queue are its group heads, and then its sentinel. -/

namespace Sys2Proof.Machine

/-- The skip count of an entry passes over no group head (R238, R50). -/
theorem not_isHead_of_skip (j : Nat) (es : List Entry) (h : skipsOk j es = true) (hlen : es.length ≤ 255) {k m : Nat}
    {x : Entry} (hx : es[k]? = some x) (hkm : k < m) (hm : m < k + x.skip.toNat) : isHead j es m = false := by
  induction es generalizing k m x with
  | nil => simp at hx
  | cons z zs ih =>
    obtain ⟨m, rfl⟩ := Nat.exists_eq_succ_of_ne_zero (Nat.ne_zero_of_lt hkm)
    cases zs with
    | nil =>
      obtain ⟨rfl, rfl⟩ : k = 0 ∧ z = x := by simpa [List.getElem?_singleton] using hx
      simp [skipsOk] at h
      simp [h] at hm
    | cons y ys =>
      simp only [skipsOk, Bool.and_eq_true, beq_iff_eq] at h
      obtain ⟨hskip, hrest⟩ := h
      have hlen' : (y :: ys).length ≤ 255 := Nat.le_of_succ_le hlen
      cases k with
      | zero =>
        obtain rfl : z = x := by simpa using hx
        by_cases hj : joins j z y
        · have hnext : z.skip.toNat ≤ y.skip.toNat + 1 := by
            rw [hskip, if_pos hj, BitVec.toNat_add]
            exact Nat.mod_le _ _
          cases m with
          | zero => simp [isHead, hj]
          | succ m =>
            rw [isHead_shift _ _ _ _ (Nat.succ_pos m)]
            exact ih hrest hlen' (k := 0) rfl (Nat.succ_pos m) (by omega)
        · rw [hskip, if_neg hj] at hm
          simp at hm
      | succ k =>
        rw [isHead_shift _ _ _ _ (by omega)]
        exact ih hrest hlen' (by simpa using hx) (Nat.lt_of_succ_lt_succ hkm) (by omega)

/-- The entry `x` begins a group of the queue, at index `i` (R238). -/
def Buffer.HeadAt (q : Buffer) (c : Config) (i : Nat) (x : Entry) : Prop :=
  q.live[i]? = some x ∧ isHead c.join q.live i = true

/-- The entry `y`, at index `k`, is one that the sequencer schedules: a group head, or the sentinel (R210, R211). -/
def Buffer.EventAt (q : Buffer) (c : Config) (k : Nat) (y : Entry) : Prop :=
  (y.id ≠ endId ∧ q.HeadAt c k y) ∨ (k = q.cnt ∧ y = sentinel q.period)

theorem Buffer.HeadAt.lt_cnt {q : Buffer} {c : Config} {i : Nat} {x : Entry} (h : q.HeadAt c i x) : i < q.cnt :=
  (List.getElem?_eq_some_iff.1 h.1).1

/-! ### When the events come -/

section
variable {q : Buffer} {c : Config} (hv : c.valid = true) (hq : q.Complete c)
include hq

/-- Widths do not fall along a complete queue (R47). -/
theorem pw_le_of_index_le {i k : Nat} {x y : Entry} (hik : i ≤ k) (hx : q.live[i]? = some x) (hy : q.live[k]? = some y) :
    x.pw.toNat ≤ y.pw.toNat := by
  obtain ⟨hi, rfl⟩ := List.getElem?_eq_some_iff.1 hx
  obtain ⟨hk, rfl⟩ := List.getElem?_eq_some_iff.1 hy
  obtain ⟨-, hsorted, -⟩ := hq
  rcases Nat.eq_or_lt_of_le hik with rfl | hlt
  · exact Nat.le_refl _
  · exact List.pairwise_iff_getElem.1 hsorted i k hi hk hlt

/-- The entry at an index that the cursor reaches is an event (R219). -/
theorem eventAt_of_isHead {k : Nat} {y : Entry} (hk : k ≤ q.cnt) (hhead : isHead c.join q.live k = true)
    (hy : q.e[k]? = some y) : q.EventAt c k y := by
  rcases Nat.eq_or_lt_of_le hk with rfl | hlt
  · rw [e_getElem?_cnt, hq.1, Option.some.injEq] at hy
    exact .inr ⟨rfl, hy.symm⟩
  · rw [e_getElem?_live q k hlt] at hy
    exact .inl ⟨live_id_ne_end q y (List.mem_of_getElem? hy), hy, hhead⟩

include hv

/-- A group head is wider than every entry before it (R239). -/
theorem pw_lt_of_headAt {i k : Nat} {x y : Entry} (hik : i < k) (hx : q.live[i]? = some x) (hy : q.HeadAt c k y) :
    x.pw.toNat < y.pw.toNat := by
  obtain ⟨hyk, hhead⟩ := hy
  have hle := pw_le_of_index_le hq (Nat.le_of_lt hik) hx hyk
  obtain ⟨-, hsorted, -⟩ := hq
  obtain ⟨-, -, -, -, -, -, hjoin, -⟩ := valid_bounds hv
  refine Nat.lt_of_le_of_ne hle fun heq => ?_
  have hleft : x.pw ∈ (q.live.map Entry.pw).take k := by
    rw [← List.map_take]
    exact List.mem_map_of_mem (List.mem_of_getElem? (i := i) (by rwa [List.getElem?_take_of_lt hik]))
  have hright : y.pw ∈ (q.live.map Entry.pw).drop k := by
    rw [← List.map_drop]
    exact List.mem_map_of_mem (List.mem_of_getElem? (i := 0) (by rwa [List.getElem?_drop]))
  exact disjoint_of_isHead hjoin (List.pairwise_map.2 hsorted) hhead hleft (BitVec.eq_of_toNat_eq heq ▸ hright)

/-- An event comes after every entry before it (R220). -/
theorem pw_lt_of_eventAt {i k : Nat} {x y : Entry} (hik : i < k) (hx : q.live[i]? = some x) (hy : q.EventAt c k y) :
    x.pw.toNat < y.pw.toNat := by
  rcases hy with ⟨-, hy⟩ | ⟨-, rfl⟩
  · exact pw_lt_of_headAt hv hq hik hx hy
  · obtain ⟨-, -, -, hband, -⟩ := hq
    obtain ⟨-, -, -, -, hmin, -⟩ := valid_bounds hv
    have hend := (hband x (List.mem_of_getElem? hx)).2
    change x.pw.toNat < q.period.toNat
    omega

/-- From a group head the cursor steps to an event, and over no group head (R210, R219). -/
theorem next_of_headAt (hcnt : q.cnt ≤ 255) {k : Nat} {x y : Entry} (hx : q.HeadAt c k x)
    (hy : q.e[k + x.skip.toNat]? = some y) :
    k < k + x.skip.toNat ∧ k + x.skip.toNat ≤ 255 ∧ q.EventAt c (k + x.skip.toNat) y ∧ x.pw.toNat < y.pw.toNat ∧
      ∀ i z, i < k + x.skip.toNat → q.HeadAt c i z → i < k ∨ (i = k ∧ z = x) := by
  obtain ⟨-, -, -, -, -, -, hskips, -⟩ := id hq
  obtain ⟨hxk, -⟩ := hx
  obtain ⟨hpos, hle, hhead⟩ := skipsOk_spec _ _ hskips hcnt k x hxk
  have hevent := eventAt_of_isHead hq hle hhead hy
  have hlt : k < k + x.skip.toNat := Nat.lt_add_of_pos_right hpos
  refine ⟨hlt, Nat.le_trans hle hcnt, hevent, pw_lt_of_eventAt hv hq hlt hxk hevent, fun i z hi ⟨hz, hzhead⟩ => ?_⟩
  rcases Nat.lt_trichotomy i k with hlt | rfl | hgt
  · exact .inl hlt
  · exact .inr ⟨rfl, Option.some.inj (hz.symm.trans hxk)⟩
  · rw [not_isHead_of_skip _ _ hskips hcnt hxk hgt hi] at hzhead
    cases hzhead

end

/-! ### The last falling edge (R211, R220) -/

/-- The search from the top finds the greatest index. -/
theorem find?_reverse_range_eq_some {p : Nat → Bool} {n k : Nat} (h : (List.range n).reverse.find? p = some k) :
    k < n ∧ p k = true ∧ ∀ i, i < n → p i = true → i ≤ k := by
  induction n with
  | zero => simp at h
  | succ n ih =>
    rw [List.range_succ, List.reverse_append, List.reverse_singleton, List.singleton_append, List.find?_cons] at h
    cases hp : p n with
    | true =>
      rw [hp] at h
      obtain rfl : n = k := Option.some.inj h
      exact ⟨Nat.lt_succ_self n, hp, fun i hi _ => Nat.le_of_lt_succ hi⟩
    | false =>
      rw [hp] at h
      obtain ⟨hk, hpk, hmax⟩ := ih h
      refine ⟨Nat.lt_succ_of_lt hk, hpk, fun i hi hpi => hmax i (Nat.lt_of_le_of_ne (Nat.le_of_lt_succ hi) ?_) hpi⟩
      rintro rfl
      exact Bool.noConfusion (hp.symm.trans hpi)

/-- The last falling edge is that of the last group head, or the commit point's (R211). -/
theorem lastFall_cases (q : Buffer) (c : Config) :
    (q.cnt = 0 ∧ q.lastFall c = c.minPulse) ∨
    ∃ k x, q.HeadAt c k x ∧ q.lastFall c = x.pw.toNat ∧ ∀ i z, q.HeadAt c i z → i ≤ k := by
  unfold Buffer.lastFall
  split
  case h_1 k hk =>
    obtain ⟨hlt, hhead, hmax⟩ := find?_reverse_range_eq_some hk
    have hx : q.live[k]? = some q.live[k] := List.getElem?_eq_getElem hlt
    exact .inr ⟨k, _, ⟨hx, hhead⟩, by rw [List.getD_eq_getElem?_getD, hx, Option.getD_some],
      fun i z hz => hmax i hz.lt_cnt hz.2⟩
  case h_2 hnone =>
    refine .inl ⟨Nat.eq_zero_of_not_pos fun hpos => ?_, rfl⟩
    exact List.find?_eq_none.1 hnone 0 (by simpa using hpos) rfl

theorem lastFall_le {q : Buffer} {c : Config} {d : Nat} (hmin : c.minPulse ≤ d)
    (hheads : ∀ i x, q.HeadAt c i x → x.pw.toNat ≤ d) : q.lastFall c ≤ d := by
  rcases lastFall_cases q c with ⟨-, e⟩ | ⟨k, x, hx, e, -⟩ <;> rw [e]
  · exact hmin
  · exact hheads k x hx

theorem minPulse_le_lastFall {q : Buffer} {c : Config} (hq : q.Complete c) : c.minPulse ≤ q.lastFall c := by
  obtain ⟨-, -, -, hband, -⟩ := hq
  rcases lastFall_cases q c with ⟨-, e⟩ | ⟨k, x, ⟨hx, -⟩, e, -⟩ <;> rw [e]
  exact (hband x (List.mem_of_getElem? hx)).1

theorem pw_le_lastFall {q : Buffer} {c : Config} (hq : q.Complete c) {i : Nat} {z : Entry} (hz : q.HeadAt c i z) :
    z.pw.toNat ≤ q.lastFall c := by
  rcases lastFall_cases q c with ⟨hnone, -⟩ | ⟨k, x, hx, e, hmax⟩
  · have := hz.lt_cnt
    omega
  · rw [e]
    exact pw_le_of_index_le hq (hmax i z hz) hz.1 hx.1

end Sys2Proof.Machine

/-! ## An undisturbed period (44_sequencer.md R217, R220)

From a quiet period start `s` on, the machine is in one of three stages, each with the time of its next event: the pins of
the slot are high until the commit point; they fall, group by group, along the committed queue; they are all low until the
period is over. -/

namespace Sys2Proof.Machine

/-! ### The stages -/

/-- In `u` the events of the committed queue before the cursor have come, the others not: `s` being the start of the
period, the groups there are clear and no other pin has fallen. -/
structure Walked (s u : State) : Prop where
  activeBuf : u.activeBuf = s.latest
  notPending : u.switchPending = false
  started : s.now + s.cfg.minPulse ≤ u.now
  passed : ∀ i x, i < u.cursor.toNat → s.latest.HeadAt s.cfg i x → s.now + x.pw.toNat ≤ u.now
  pins : ∀ p, u.gpioOut.getLsbD p = true ↔ s.allHigh.gpioOut.getLsbD p = true ∧
    ∀ i x, i < u.cursor.toNat → s.latest.HeadAt s.cfg i x → x.clear.getLsbD p = false

/-- The stage of the period that began in `s`, and when its next event is due. -/
inductive PeriodStage (s u : State) : Prop
  /-- From the period start to the commit point (R208). -/
  | high (phase : u.phase = 1) (latest : u.latest = s.latest) (pins : u.gpioOut = s.allHigh.gpioOut)
      (next : u.now + u.timerCnt.toNat = s.now + s.cfg.minPulse)
  /-- The next event is the group of the head `x` under the cursor (R209, R210). -/
  | falling {x : Entry} (phase : u.phase = 2) (walked : Walked s u) (head : s.latest.HeadAt s.cfg u.cursor.toNat x)
      (next : u.now + u.timerCnt.toNat = s.now + x.pw.toNat)
  /-- The last pins have fallen; the next event is the end of the period (R211). -/
  | low (phase : u.phase = 0) (activeBuf : u.activeBuf = s.latest) (notPending : u.switchPending = false)
      (pins : u.gpioOut = 0) (fallen : s.now + s.latest.lastFall s.cfg ≤ u.now)
      (next : u.now + u.timerCnt.toNat = s.now + s.latest.period.toNat)

theorem valid_of_inv {s : State} (h : s.Inv) : s.cfg.valid = true := by
  obtain ⟨⟨hv, -⟩, -⟩ := h
  exact hv

/-- The buffer prepared last, in an invariant state (R32, R47, R48). -/
theorem latest_of_inv {s : State} (h : s.Inv) : s.latest.Complete s.cfg ∧ s.latest.cnt ≤ 255 := by
  obtain ⟨hshape, -, -, -, hc0, hc1, -⟩ := h
  rw [← commit_activeBuf_eq_latest, commit_activeBuf]
  have hq := buf_complete hc0 hc1 (s.active != s.switchPending)
  have hcnt := cnt_le_of_length hq (buf_length s _ hshape)
  obtain ⟨-, hn, -⟩ := valid_bounds hshape.1
  exact ⟨hq, by omega⟩

theorem minPulse_toNat {s : State} (hv : s.cfg.valid = true) : s.minPulse.toNat = s.cfg.minPulse := by
  obtain ⟨-, -, -, -, -, hmin, -⟩ := valid_bounds hv
  rw [State.minPulse, BitVec.toNat_ofNat]
  omega

theorem satsub_toNat {a b : U16} (h : b.toNat ≤ a.toNat) : (satsub a b).toNat = a.toNat - b.toNat := by
  rw [satsub_of_le h, BitVec.toNat_sub_of_le h]

/-- The pins of a period start: those already high, and those of the slot (R208). -/
theorem allHigh_gpioOut_getLsbD (s : State) (p : Nat) :
    s.allHigh.gpioOut.getLsbD p = true ↔
      s.gpioOut.getLsbD p = true ∨ (s.activeBuf.set.get s.slot.toFin).getLsbD p = true := by
  rw [← Bool.or_eq_true, ← BitVec.getLsbD_or]
  rfl

/-! ### What the pins are in a stage -/

/-- After the expiry steps of a microsecond the pins are those of R220. -/
theorem PeriodStage.pins {s u : State} {d : Nat} (hs : s.Inv) (h : PeriodStage s u) (hcnt : 0 < u.timerCnt.toNat)
    (hnow : u.now = s.now + d) (p : Nat) :
    u.gpioOut.getLsbD p = true ↔ s.allHigh.gpioOut.getLsbD p = true ∧ d < s.latest.lastFall s.cfg ∧
      ∀ i x, s.latest.HeadAt s.cfg i x → x.clear.getLsbD p = true → d < x.pw.toNat := by
  obtain ⟨hq, -⟩ := latest_of_inv hs
  cases h with
  | high _ _ hpins hdue =>
    have hbefore : d < s.latest.lastFall s.cfg ∧
        ∀ i x, s.latest.HeadAt s.cfg i x → x.clear.getLsbD p = true → d < x.pw.toNat := by
      refine ⟨Nat.lt_of_lt_of_le (by omega) (minPulse_le_lastFall hq), fun i x hx _ => ?_⟩
      obtain ⟨-, -, -, hband, -⟩ := id hq
      have := (hband x (List.mem_of_getElem? hx.1)).1
      omega
    rw [hpins]
    exact ⟨fun hp => ⟨hp, hbefore⟩, And.left⟩
  | @falling y _ hw hy hdue =>
    rw [hw.pins]
    refine and_congr_right fun _ => ⟨fun hclear => ⟨?_, fun i x hx hxp => ?_⟩, fun ⟨_, hwidth⟩ i x hi hx => ?_⟩
    · exact Nat.lt_of_lt_of_le (by omega) (pw_le_lastFall hq hy)
    · have hi : u.cursor.toNat ≤ i := Nat.le_of_not_lt fun hlt => by simp [hclear i x hlt hx] at hxp
      have := pw_le_of_index_le hq hi hy.1 hx.1
      omega
    · refine Bool.eq_false_iff.2 fun hxp => ?_
      have := hw.passed i x hi hx
      have := hwidth i x hx hxp
      omega
  | low _ _ _ hpins hfall =>
    rw [hpins]
    refine iff_of_false (by simp) fun ⟨_, hlt, _⟩ => ?_
    omega

/-- No event is later than the end of the period (R47). -/
theorem PeriodStage.now_le {s u : State} (hs : s.Inv) (h : PeriodStage s u) :
    u.now + u.timerCnt.toNat ≤ s.now + s.latest.period.toNat := by
  obtain ⟨⟨-, -, hper, hband, -⟩, -⟩ := latest_of_inv hs
  cases h with
  | high _ _ _ hdue => omega
  | falling _ _ hy hdue =>
    have := (hband _ (List.mem_of_getElem? hy.1)).2
    omega
  | low _ _ _ _ _ hdue => omega

/-! ### The tick and the free schedule within a stage -/

/-- Later, with the sequencer and its buffers where they were, no other event has come. -/
theorem Walked.later {s u v : State} (h : Walked s u) (hbuf : v.activeBuf = u.activeBuf)
    (hpend : v.switchPending = u.switchPending) (hcursor : v.cursor = u.cursor) (hpins : v.gpioOut = u.gpioOut)
    (hnow : u.now ≤ v.now) : Walked s v where
  activeBuf := hbuf.trans h.activeBuf
  notPending := hpend.trans h.notPending
  started := Nat.le_trans h.started hnow
  passed := fun i x hi hx => Nat.le_trans (h.passed i x (hcursor ▸ hi) hx) hnow
  pins := by
    rw [hpins, hcursor]
    exact h.pins

theorem tick_latest (s : State) : s.tick.latest = s.latest := by
  simp [State.latest, State.activeBuf, State.idleBuf, State.buf]

/-- A tick brings the event of the stage nearer by one, and nothing else (R206). -/
theorem PeriodStage.tick {s u : State} (h : PeriodStage s u) (hrun : u.timerRun = true) (hcnt : u.timerCnt ≠ 0) :
    PeriodStage s u.tick := by
  have hdue : u.tick.now + u.tick.timerCnt.toNat = u.now + u.timerCnt.toNat := by
    rw [tick_now, tick_timerCnt, if_pos (by simpa [hrun] using hcnt)]
    bv_omega
  have hbuf : u.tick.activeBuf = u.activeBuf := (sameEngine_tick u).activeBuf
  have hlater : u.now ≤ u.tick.now := by simp
  cases h with
  | high hphase hlatest hpins h =>
    exact .high (by simpa using hphase) ((tick_latest u).trans hlatest) (by simpa using hpins) (hdue.trans h)
  | falling hphase hw hx h =>
    exact .falling (by simpa using hphase) (hw.later hbuf (by simp) (by simp) (by simp) hlater) (by simpa using hx)
      (hdue.trans h)
  | low hphase hact hpend hpins hfall h =>
    exact .low (by simpa using hphase) (hbuf.trans hact) (by simpa using hpend) (by simpa using hpins)
      (Nat.le_trans hfall hlater) (hdue.trans h)

/-! ### The expiry step takes the stage's event -/

/-- Scheduling the event at the cursor gives the next stage, and the event is still to come (R209 to R211). -/
theorem periodStage_schedule {s u : State} {y : Entry} {prev : U16} (hw : Walked s u)
    (hlow : u.gpioOut &&& ~~~ u.asserted = 0) (hy : s.latest.EventAt s.cfg u.cursor.toNat y)
    (hnow : u.now = s.now + prev.toNat) (hlt : prev.toNat < y.pw.toNat) :
    PeriodStage s (u.schedule y prev) ∧ 0 < (u.schedule y prev).timerCnt.toNat := by
  have hcnt := satsub_toNat (Nat.le_of_lt hlt)
  rcases hy with ⟨hid, hy⟩ | ⟨hk, rfl⟩
  · rw [schedule_eq, if_neg hid]
    have hw' := hw.later (v := { u with timerCnt := satsub y.pw prev, late := 0, phase := 2 }) rfl rfl rfl rfl
      (Nat.le_refl _)
    refine ⟨.falling rfl hw' hy ?_, ?_⟩ <;> simp only [hcnt] <;> omega
  · change prev.toNat < s.latest.period.toNat at hlt
    change (satsub s.latest.period prev).toNat = _ at hcnt
    have hfall : s.latest.lastFall s.cfg ≤ prev.toNat :=
      lastFall_le (by have := hw.started; omega) fun i x hx => by
        have := hw.passed i x (hk ▸ hx.lt_cnt) hx
        omega
    rw [schedule_eq, if_pos (show (sentinel s.latest.period).id = endId from rfl)]
    refine ⟨.low rfl hw.activeBuf hw.notPending hlow ?_ ?_, ?_⟩ <;> simp only [sentinel, hcnt] <;> omega

theorem getLsbD_and_not (a b : Pins) (p : Nat) : (a &&& ~~~ b).getLsbD p = (a.getLsbD p && !b.getLsbD p) := by
  rw [BitVec.getLsbD_and, BitVec.getLsbD_not]
  by_cases hp : p < 255
  · simp [hp]
  · simp [BitVec.getLsbD_of_ge a p (Nat.le_of_not_lt hp)]

/-- When the width of the group under the cursor has passed, its pins fall and the cursor is at the next event
(R210). -/
theorem Walked.fall {s u : State} {x : Entry} {k : U8} (hw : Walked s u) (hx : s.latest.HeadAt s.cfg u.cursor.toNat x)
    (hnow : u.now = s.now + x.pw.toNat) (hlt : u.cursor.toNat < k.toNat)
    (hskip : ∀ i z, i < k.toNat → s.latest.HeadAt s.cfg i z → i < u.cursor.toNat ∨ (i = u.cursor.toNat ∧ z = x)) :
    Walked s (u.fall x.clear k) where
  activeBuf := hw.activeBuf
  notPending := hw.notPending
  started := hw.started
  passed := fun i z hi hz => by
    rcases hskip i z hi hz with hi | ⟨-, rfl⟩
    · exact hw.passed i z hi hz
    · exact Nat.le_of_eq hnow.symm
  pins := fun p => by
    rw [State.fall, getLsbD_and_not, Bool.and_eq_true, hw.pins, and_assoc, Bool.not_eq_true']
    refine and_congr_right fun _ => ⟨fun ⟨hbefore, hhere⟩ i z hi hz => ?_, fun hall => ⟨fun i z hi hz => ?_, ?_⟩⟩
    · rcases hskip i z hi hz with hi | ⟨-, rfl⟩
      · exact hbefore i z hi hz
      · exact hhere
    · exact hall i z (Nat.lt_trans hi hlt) hz
    · exact hall _ x hlt hx

/-- The drain action takes the event of the group under the cursor (R210). -/
theorem periodStage_drain {s u t : State} {x : Entry} (hs : s.Inv) (hw : Walked s u)
    (hlow : u.gpioOut &&& ~~~ u.asserted = 0) (hx : s.latest.HeadAt s.cfg u.cursor.toNat x)
    (hnow : u.now = s.now + x.pw.toNat) (ht : u.drain = .ok t) : PeriodStage s t ∧ 0 < t.timerCnt.toNat := by
  obtain ⟨hq, hcnt⟩ := latest_of_inv hs
  obtain ⟨x', y, hx', hy, rfl⟩ := (drain_eq_ok_iff u t).1 ht
  rw [hw.activeBuf] at hx' hy
  obtain rfl : x = x' := by
    rw [e_getElem?_live _ _ hx.lt_cnt, hx.1] at hx'
    exact Option.some.inj hx'
  obtain ⟨hlt, hle, hevent, hwider, hskip⟩ := next_of_headAt (valid_of_inv hs) hq hcnt hx hy
  have hto : (BitVec.ofNat 8 (u.cursor.toNat + x.skip.toNat)).toNat = u.cursor.toNat + x.skip.toNat := by
    rw [BitVec.toNat_ofNat]
    omega
  rw [← hto] at hlt hevent hskip
  exact periodStage_schedule (hw.fall hx hnow hlt hskip) (and_not_eq_zero hlow _) hevent hnow hwider

/-- The commit point takes up the buffer prepared last, at its first event (R193, R209). -/
theorem walked_commit {s u : State} (hlatest : u.latest = s.latest) (hpins : u.gpioOut = s.allHigh.gpioOut)
    (hnow : u.now = s.now + s.cfg.minPulse) : Walked s { u.commit with cursor := 0 } where
  activeBuf := (commit_activeBuf_eq_latest u).trans hlatest
  notPending := commit_switchPending u
  started := by simp [hnow]
  passed := fun i _ hi => absurd hi (Nat.not_lt_zero i)
  pins := fun p => by simp [hpins]

theorem periodStage_awaitCommit {s u t : State} (hs : s.Inv) (hcfg : u.cfg = s.cfg)
    (hlow : u.gpioOut &&& ~~~ u.asserted = 0) (hlatest : u.latest = s.latest) (hpins : u.gpioOut = s.allHigh.gpioOut)
    (hnow : u.now = s.now + s.cfg.minPulse) (ht : u.awaitCommit = .ok t) :
    PeriodStage s t ∧ 0 < t.timerCnt.toNat := by
  obtain ⟨hq, -⟩ := latest_of_inv hs
  obtain ⟨-, -, hper, hband, -⟩ := id hq
  have hmin : u.minPulse.toNat = s.cfg.minPulse := by rw [minPulse_toNat (hcfg ▸ valid_of_inv hs), hcfg]
  obtain ⟨-, -, -, -, hpos, -⟩ := valid_bounds (valid_of_inv hs)
  have hw := walked_commit hlatest hpins hnow
  have hlow' : u.commit.gpioOut &&& ~~~ u.commit.asserted = 0 := by simpa using hlow
  have hnow' : u.commit.now = s.now + u.minPulse.toNat := by rw [commit_now, hnow, hmin]
  obtain ⟨x, hx, hrun⟩ := (awaitCommit_eq_ok_iff u t).1 ht
  rw [commit_activeBuf_eq_latest, hlatest] at hx
  have hevent : s.latest.EventAt s.cfg 0 x := eventAt_of_isHead hq (Nat.zero_le _) rfl hx
  rcases hrun with ⟨hid, hsat, hd⟩ | ⟨hnot, rfl⟩
  · have hhead : s.latest.HeadAt s.cfg 0 x := by
      rcases hevent with ⟨-, hhead⟩ | ⟨-, rfl⟩
      · exact hhead
      · exact absurd rfl hid
    have hle : x.pw.toNat ≤ u.minPulse.toNat := (satsub_eq_zero_iff _ _).1 hsat
    have hge := (hband x (List.mem_of_getElem? hhead.1)).1
    exact periodStage_drain (u := { u.commit with cursor := 0 }) hs hw hlow' hhead (hnow'.trans (by omega)) hd
  · have hlt : u.minPulse.toNat < x.pw.toNat := by
      rcases hevent with ⟨hid, -⟩ | ⟨-, rfl⟩
      · exact Nat.lt_of_not_le fun hle => hnot ⟨hid, (satsub_eq_zero_iff _ _).2 hle⟩
      · change _ < s.latest.period.toNat
        omega
    exact periodStage_schedule (u := { u.commit with cursor := 0 }) hw hlow' hevent hnow' hlt

/-- A due expiry step within the period takes the event of its stage, and the next event is still to come. -/
theorem periodStage_expiry {s u v : State} (hs : s.Inv) (hcfg : u.cfg = s.cfg) (hlow : u.gpioOut &&& ~~~ u.asserted = 0)
    (h : PeriodStage s u) (hcnt : u.timerCnt = 0) (hphase : u.phase ≠ 0) (hv : u.expiry = .next v) :
    PeriodStage s v ∧ 0 < v.timerCnt.toNat := by
  have hzero : u.timerCnt.toNat = 0 := by rw [hcnt]; rfl
  cases h with
  | high h1 hlatest hpins hnext =>
    rw [expiry_of_phase_one h1, finish_eq_next_iff] at hv
    exact periodStage_awaitCommit hs hcfg hlow hlatest hpins (by omega) hv
  | falling h2 hw hx hnext =>
    rw [expiry_of_phase_two h2, finish_eq_next_iff] at hv
    exact periodStage_drain hs hw hlow hx (by omega) hv
  | low h0 => exact absurd h0 hphase

end Sys2Proof.Machine

/-! ## The run through an undisturbed period (44_sequencer.md R217, R220) -/

namespace Sys2Proof.Machine

/-! ### A quiet machine moves by the clock alone (R17) -/

/-- `s` after an unscripted step has been counted, with no preparation to wait for (log 5). -/
def State.drawn (s : State) : State := { s with draws := s.draws + 1, prepWait := none }

/-- With nothing scripted or owed, and no lateness allowed, a step is the expiry step if one is due, else the tick. -/
theorem step_of_quiet {s : State} (hv : s.cfg.valid = true) (hlat : s.cfg.latMax = 0) (hscript : s.script = [])
    (hidle : s.busy = false) : step s = if s.due = true then s.drawn.expiry else .next s.drawn.tick := by
  have hclock : s.clockMove = if s.due = true then .expire else .tick := by
    simp [State.clockMove, hlat]
  have hnext : s.nextMove = (s.clockMove, s.drawn) := by simp [State.nextMove, hscript, hidle, State.drawn]
  rw [step_eq s hv, hnext, hclock]
  by_cases hdue : s.due = true
  · rw [if_pos hdue, if_pos hdue, offer_of_enabled (show s.drawn.enabled .expire = true from hdue)]
    rfl
  · have htick : s.drawn.enabled .tick = true :=
      (tickEnabled_eq_true_iff _).2 (.inl (mt (due_eq_true_iff s).2 hdue))
    rw [if_neg hdue, if_neg hdue, offer_of_enabled htick]
    rfl

/-- An expiry step within a period takes no time and leaves the slot (R208, R304). -/
theorem expiry_now_slot {s t : State} (h : s.expiry = .next t) (hphase : s.phase ≠ 0) :
    t.now = s.now ∧ t.slot = s.slot := by
  rcases expiry_cases h with ⟨h0, -⟩ | ⟨-, m, k, x, prev, rfl⟩
  · exact absurd h0 hphase
  · rw [committed_eq s]
    rcases schedule_cases (State.fall _ m k) x prev with ⟨-, e⟩ | ⟨-, e⟩ <;> rw [e] <;> exact ⟨rfl, rfl⟩

/-- `u` is within the undisturbed period that began in `s`. -/
structure InPeriod (s u : State) : Prop where
  inv : u.Inv
  cfg : u.cfg = s.cfg
  ch : u.ch = s.ch
  slot : u.slot = s.slot + 1
  script : u.script = []
  idle : u.busy = false
  timerRun : u.timerRun = true
  stage : PeriodStage s u

theorem PeriodStage.drawn {s u : State} (h : PeriodStage s u) : PeriodStage s u.drawn := by
  cases h with
  | high h1 hlatest hpins hnext => exact .high h1 hlatest hpins hnext
  | falling h2 hw hx hnext => exact .falling h2 (hw.later rfl rfl rfl rfl (Nat.le_refl _)) hx hnext
  | low h0 hact hpend hpins hfall hnext => exact .low h0 hact hpend hpins hfall hnext

/-- A step that writes, of what the command engine reads, at most what a commit does, leaves the machine quiet. -/
theorem inPeriod_of_frame {s u v : State} {active pending : Bool} (hu : InPeriod s u)
    (hf : SequencerFrame { u.drawn with active := active, switchPending := pending } v) (hinv : v.Inv)
    (hslot : v.slot = u.slot) (hstage : PeriodStage s v) : InPeriod s v where
  inv := hinv
  cfg := hf.cfg.trans hu.cfg
  ch := hf.ch.trans hu.ch
  slot := hslot.trans hu.slot
  script := hf.script.trans hu.script
  idle := by
    rw [State.busy, hf.plan]
    exact hu.idle
  timerRun := hf.timerRun.trans hu.timerRun
  stage := hstage

/-! ### The steps of the period -/

theorem InPeriod.due_eq_false_iff {s u : State} (h : InPeriod s u) : u.due = false ↔ 0 < u.timerCnt.toNat := by
  rw [Bool.eq_false_iff, ne_eq, due_eq_true_iff, Nat.pos_iff_ne_zero]
  simp [h.timerRun, BitVec.toNat_eq]

/-- The period is over when its next ALL_HIGH step is due (R217). -/
theorem InPeriod.now_of_end {s u : State} (h : InPeriod s u) (hphase : u.phase = 0) (hdue : u.due = true) :
    u.now = s.now + s.latest.period.toNat := by
  have hzero : ¬ 0 < u.timerCnt.toNat := fun hpos => by simp [h.due_eq_false_iff.2 hpos] at hdue
  cases h.stage with
  | high h1 => simp [hphase] at h1
  | falling h2 => simp [hphase] at h2
  | low _ _ _ _ _ hnext => omega

/-- The ALL_HIGH step begins the period (R208). -/
theorem inPeriod_start {s : State} (hs : s.QuietPeriodStart) :
    ∃ v, step s = .next v ∧ InPeriod s v ∧ v.now = s.now := by
  obtain ⟨hinv, hlat, hscript, hidle, hphase, hdue⟩ := hs
  have hstep : step s = .next s.drawn.allHigh := by
    rw [step_of_quiet (valid_of_inv hinv) hlat hscript hidle, if_pos hdue]
    exact expiry_of_phase_zero hphase
  have hstage : PeriodStage s s.drawn.allHigh :=
    .high rfl rfl rfl (congrArg (s.now + ·) (minPulse_toNat (valid_of_inv hinv)))
  exact ⟨_, hstep, ⟨stepKeepsInv _ _ hinv hstep, rfl, rfl, rfl, hscript, hidle, ((due_eq_true_iff s).1 hdue).1, hstage⟩,
    rfl⟩

/-- Until the period is over the machine goes from stage to stage: a due expiry step takes the event at once, and else
time passes (R206, R207, R217). -/
theorem InPeriod.step {s u : State} (hs : s.QuietPeriodStart) (hu : InPeriod s u)
    (hnot : ¬ (u.phase = 0 ∧ u.due = true)) :
    ∃ v, Machine.step u = .next v ∧ InPeriod s v ∧
      ((u.due = true ∧ v.due = false ∧ v.now = u.now) ∨ (u.due = false ∧ v.now = u.now + 1)) := by
  obtain ⟨hinv, hlat, -⟩ := hs
  obtain ⟨v, hv⟩ := step_goes hu.inv
  have hvinv := stepKeepsInv u v hu.inv hv
  have hstep := hv
  rw [step_of_quiet (valid_of_inv hu.inv) (hu.cfg ▸ hlat) hu.script hu.idle] at hstep
  by_cases hdue : u.due = true
  · rw [if_pos hdue] at hstep
    have hphase : u.drawn.phase ≠ 0 := fun h0 => hnot ⟨h0, hdue⟩
    obtain ⟨-, -, -, -, -, -, -, -, -, hlow, -⟩ := hu.inv
    obtain ⟨hstage, hpos⟩ := periodStage_expiry (u := u.drawn) hinv hu.cfg hlow hu.stage.drawn
      ((due_eq_true_iff u).1 hdue).2 hphase hstep
    obtain ⟨hnow, hslot⟩ := expiry_now_slot hstep hphase
    have hframe := expiry_frame hstep
    rw [committed_eq] at hframe
    have hin := inPeriod_of_frame hu hframe hvinv hslot hstage
    exact ⟨v, hv, hin, .inl ⟨hdue, hin.due_eq_false_iff.2 hpos, hnow⟩⟩
  · rw [if_neg hdue] at hstep
    cases hstep
    have hcnt : u.timerCnt ≠ 0 := fun h0 => hdue ((due_eq_true_iff u).2 ⟨hu.timerRun, h0⟩)
    exact ⟨_, hv, inPeriod_of_frame hu (sequencerFrame_tick u.drawn) hvinv (tick_slot u.drawn)
      (hu.stage.drawn.tick hu.timerRun hcnt), .inr ⟨Bool.eq_false_iff.2 hdue, tick_now u.drawn⟩⟩

/-! ### The run through the period -/

/-- A run goes on to the first state with `P`, if until there each step goes, keeps `I` and makes `μ` less. -/
theorem run_until {M : Host.Core} {I P : M.State → Prop} (μ : M.State → Nat)
    (hstep : ∀ u, I u → ¬ P u → ∃ v, M.step u = .next v ∧ I v ∧ μ v < μ u) {s : M.State} (hs : I s) :
    ∃ k t, M.run k s = .next t ∧ I t ∧ P t ∧ ∀ j u, j < k → M.run j s = .next u → I u ∧ ¬ P u := by
  obtain ⟨n, hn⟩ : ∃ n, μ s = n := ⟨_, rfl⟩
  induction n using Nat.strong_induction_on generalizing s with
  | _ n ih =>
    by_cases hp : P s
    · exact ⟨0, s, rfl, hs, hp, fun _ _ hj => absurd hj (Nat.not_lt_zero _)⟩
    · obtain ⟨v, hv, hiv, hless⟩ := hstep s hs hp
      obtain ⟨k, t, ht, hit, hpt, hbefore⟩ := ih _ (hn ▸ hless) hiv rfl
      refine ⟨k + 1, t, (run_succ_of_step hv).trans ht, hit, hpt, fun j u hj hu => ?_⟩
      cases j with
      | zero =>
        cases hu
        exact ⟨hs, hp⟩
      | succ j =>
        rw [run_succ_of_step hv] at hu
        exact hbefore j u (Nat.lt_of_succ_lt_succ hj) hu

/-- `u` is within the period that began in `s`, and not past its microsecond `d`. -/
structure InPeriodUpTo (s : State) (d : Nat) (u : State) : Prop extends InPeriod s u where
  now_le : u.now ≤ s.now + d

/-- `u` is at the microsecond `d` of the period, with the expiry steps of that microsecond taken, or at its end. -/
def ArrivedAt (s : State) (d : Nat) (u : State) : Prop := u.now = s.now + d ∧ (u.due = false ∨ u.phase = 0)

theorem InPeriodUpTo.not_end {s u : State} {d : Nat} (hd : d ≤ s.latest.period.toNat) (hu : InPeriodUpTo s d u)
    (hnot : ¬ ArrivedAt s d u) : ¬ (u.phase = 0 ∧ u.due = true) := fun ⟨hphase, hdue⟩ => by
  have hnow := hu.now_of_end hphase hdue
  have hle := hu.now_le
  exact hnot ⟨by omega, .inr hphase⟩

/-- A bound on the steps left in the period: two for each microsecond, and a due expiry step. -/
def State.stepsLeft (s u : State) : Nat := 2 * (s.now + s.latest.period.toNat - u.now) + u.due.toNat

theorem InPeriodUpTo.step {s u : State} {d : Nat} (hs : s.QuietPeriodStart) (hd : d ≤ s.latest.period.toNat)
    (hu : InPeriodUpTo s d u) (hnot : ¬ ArrivedAt s d u) :
    ∃ v, Machine.step u = .next v ∧ InPeriodUpTo s d v ∧ s.stepsLeft v < s.stepsLeft u := by
  obtain ⟨v, hv, hin, hcase⟩ := hu.toInPeriod.step hs (hu.not_end hd hnot)
  have hle := hu.now_le
  refine ⟨v, hv, ?_⟩
  rcases hcase with ⟨hdue, hvdue, hnow⟩ | ⟨hdue, hnow⟩
  · exact ⟨⟨hin, by omega⟩, by simp [State.stepsLeft, hdue, hvdue, hnow]⟩
  · have hne : u.now ≠ s.now + d := fun heq => hnot ⟨heq, .inl hdue⟩
    have hbool := Bool.toNat_le v.due
    refine ⟨⟨hin, by omega⟩, ?_⟩
    simp only [State.stepsLeft, hdue, hnow, Bool.toNat_false]
    omega

/-- An undisturbed period reaches each of its microseconds, and its end; before that no other period starts (R217). -/
theorem arrivesAt {s : State} (hs : s.QuietPeriodStart) {d : Nat} (hd : d ≤ s.latest.period.toNat) :
    ∃ (k : Nat) (t : State), Host.Core.run Sys2Proof.core (k + 1) s = .next t ∧ InPeriod s t ∧ ArrivedAt s d t ∧
      ∀ (j : Nat) (u : State), j < k → Host.Core.run Sys2Proof.core (j + 1) s = .next u →
        ¬ (u.phase = 0 ∧ u.due = true) := by
  obtain ⟨v, hv, hin, hnow⟩ := inPeriod_start hs
  have hrun : ∀ k, Host.Core.run Sys2Proof.core (k + 1) s = Host.Core.run Sys2Proof.core k v :=
    fun _ => run_succ_of_step (M := Sys2Proof.core) hv
  obtain ⟨k, t, ht, hit, hat, hbefore⟩ := run_until (M := Sys2Proof.core) (P := ArrivedAt s d) s.stepsLeft
    (fun _ hu => hu.step hs hd) (InPeriodUpTo.mk (d := d) hin (by omega))
  refine ⟨k, t, (hrun k).trans ht, hit.toInPeriod, hat, fun j u hj hu => ?_⟩
  obtain ⟨hup, hnot⟩ := hbefore j u hj ((hrun j).symm.trans hu)
  exact hup.not_end hd hnot

/-- Settles O56: the run reaches the end of the committed buffer's period, where the stage has the pins low. -/
theorem periodLength : Obligations.PeriodLength := by
  intro s hs
  obtain ⟨hinv, -⟩ := id hs
  obtain ⟨k, t, hrun, hin, ⟨hnow, hafter⟩, hbefore⟩ := arrivesAt hs (Nat.le_refl _)
  have hdue : t.due = true := by
    by_contra hdue
    have hpos := hin.due_eq_false_iff.1 (Bool.eq_false_iff.2 hdue)
    have hle := hin.stage.now_le hinv
    omega
  have hphase : t.phase = 0 := hafter.resolve_left (by simp [hdue])
  refine ⟨k + 1, t, hrun, Nat.succ_pos k, hnow, hphase, hdue, hin.slot, ?_⟩
  cases hin.stage with
  | high h1 => simp [hphase] at h1
  | falling h2 => simp [hphase] at h2
  | low _ hact hpend hpins =>
    refine ⟨hact, hpend, hpins, hin.ch, fun j u hj hjk hu => ?_⟩
    obtain ⟨j, rfl⟩ := Nat.exists_eq_succ_of_ne_zero (Nat.ne_zero_of_lt hj)
    exact hbefore j u (Nat.lt_of_succ_lt_succ hjk) hu

/-- Settles O57: the run reaches the microsecond, and the stage there has the pins of R220. -/
theorem pinWaveform : Obligations.PinWaveform := by
  intro s d hs hd
  obtain ⟨hinv, -⟩ := id hs
  obtain ⟨k, t, hrun, hin, ⟨hnow, hafter⟩, -⟩ := arrivesAt hs (Nat.le_of_lt hd)
  have hdue : t.due = false := by
    rcases hafter with hdue | hphase
    · exact hdue
    · refine Bool.eq_false_iff.2 fun hdue => ?_
      have := hin.now_of_end hphase hdue
      omega
  refine ⟨k + 1, t, hrun, hnow, hdue, fun p => ?_⟩
  rw [hin.stage.pins hinv (hin.due_eq_false_iff.1 hdue) hnow, allHigh_gpioOut_getLsbD]
  refine and_congr_right fun _ => and_congr_right fun _ => ?_
  exact ⟨fun h i x hx hhead => h i x ⟨hx, hhead⟩, fun h i x ⟨hx, hhead⟩ => h i x hx hhead⟩

end Sys2Proof.Machine

/-! ## What an entry of an annotated queue says (45_bitmap_optimizer.md R238, R239)

The group heads are said by `annotate_skipsOk`, the clear bitmap by the closed form `annotated_getElem?`. -/

namespace Sys2Proof.Machine

/-! ### The clear bitmap -/

theorem groupLen_le_length (j : Nat) (ws : List U16) : groupLen j ws ≤ ws.length := by
  induction ws with
  | nil => exact Nat.le_refl 0
  | cons v ws ih =>
    cases ws with
    | nil => exact Nat.le_refl 1
    | cons w ws =>
      rw [groupLen]
      split
      · exact Nat.succ_le_succ ih
      · exact Nat.succ_pos _

/-- At most 255 entries have skip counts that fit their 8 bits (R31, R238). -/
theorem annotated_skip_toNat {j : Nat} {f : U8 → Pins} {es : List Entry} (h : es = annotate j f es)
    (hlen : es.length ≤ 255) {k : Nat} {x : Entry} (hx : es[k]? = some x) :
    x.skip.toNat = groupLen j ((es.map Entry.pw).drop k) := by
  have hle := groupLen_le_length j ((es.map Entry.pw).drop k)
  rw [List.length_drop, List.length_map] at hle
  rw [(annotated_getElem? h hx).2, BitVec.toNat_ofNat, Nat.mod_eq_of_lt (by omega)]

theorem clearUnion_getLsbD (f : U8 → Pins) (ids : List U8) (p : Nat) :
    (clearUnion f ids).getLsbD p = true ↔ ∃ id ∈ ids, (f id).getLsbD p = true := by
  induction ids with
  | nil => simp [clearUnion]
  | cons a ids ih =>
    change (f a ||| clearUnion f ids).getLsbD p = true ↔ _
    rw [BitVec.getLsbD_or, Bool.or_eq_true, ih, List.exists_mem_cons_iff]

theorem mem_take_drop_iff {α : Type} {l : List α} {k n : Nat} {a : α} :
    a ∈ (l.drop k).take n ↔ ∃ m, k ≤ m ∧ m < k + n ∧ l[m]? = some a := by
  rw [List.mem_iff_getElem?]
  constructor
  · rintro ⟨i, hi⟩
    rw [List.getElem?_take, Option.ite_none_right_eq_some, List.getElem?_drop] at hi
    obtain ⟨hin, ha⟩ := hi
    exact ⟨k + i, Nat.le_add_right k i, Nat.add_lt_add_left hin k, ha⟩
  · rintro ⟨m, hkm, hm, ha⟩
    obtain ⟨i, rfl⟩ := Nat.exists_eq_add_of_le hkm
    exact ⟨i, by rwa [List.getElem?_take_of_lt (Nat.lt_of_add_lt_add_left hm), List.getElem?_drop]⟩

/-- The clear bitmap holds the pins of the entries that `skip` passes over (R238). -/
theorem annotated_clear_getLsbD {j : Nat} {f : U8 → Pins} {es : List Entry} (h : es = annotate j f es)
    (hlen : es.length ≤ 255) {k : Nat} {x : Entry} (hx : es[k]? = some x) (p : Nat) :
    x.clear.getLsbD p = true ↔
      ∃ m y, k ≤ m ∧ m < k + x.skip.toNat ∧ es[m]? = some y ∧ (f y.id).getLsbD p = true := by
  rw [(annotated_getElem? h hx).1, clearUnion_getLsbD, ← annotated_skip_toNat h hlen hx]
  simp only [mem_take_drop_iff, List.getElem?_map, Option.map_eq_some_iff]
  constructor
  · rintro ⟨-, ⟨m, hkm, hm, y, hy, rfl⟩, hp⟩
    exact ⟨m, y, hkm, hm, hy, hp⟩
  · rintro ⟨m, y, hkm, hm, hy, hp⟩
    exact ⟨y.id, ⟨m, hkm, hm, y, hy, rfl⟩, hp⟩

/-! ### The widths of a sorted queue -/

theorem pw_mono_of_sorted {es : List Entry} (hs : es.Pairwise (fun a b => a.pw ≤ b.pw)) {i k : Nat} {x y : Entry}
    (hik : i ≤ k) (hx : es[i]? = some x) (hy : es[k]? = some y) : x.pw.toNat ≤ y.pw.toNat := by
  rcases Nat.eq_or_lt_of_le hik with rfl | hlt
  · rw [hx, Option.some.injEq] at hy
    exact hy ▸ Nat.le_refl _
  · obtain ⟨hi, rfl⟩ := List.getElem?_eq_some_iff.1 hx
    obtain ⟨hk, rfl⟩ := List.getElem?_eq_some_iff.1 hy
    exact List.pairwise_iff_getElem.1 hs i k hi hk hlt

/-- The 16-bit difference of R238 does not underflow in a sorted queue: a group head is JOIN wider than its left neighbour
(log 15). -/
theorem isHead_succ_iff_of_sorted {j : Nat} {es : List Entry} (hs : es.Pairwise (fun a b => a.pw ≤ b.pw)) {m : Nat}
    {y z : Entry} (hy : es[m]? = some y) (hz : es[m + 1]? = some z) :
    isHead j es (m + 1) = true ↔ y.pw.toNat + j ≤ z.pw.toNat := by
  have hle : y.pw.toNat ≤ z.pw.toNat := pw_mono_of_sorted hs (Nat.le_succ m) hy hz
  have hhead : isHead j es (m + 1) = !joins j y z := by simp only [isHead, hy, hz]
  rw [hhead, joins, BitVec.toNat_sub_of_le hle, Bool.not_eq_true', decide_eq_false_iff_not]
  omega

/-- Settles O21: the skip counts of `annotate_skipsOk` pass over no group head and end at one, and in a sorted queue the
heads are where the width rises by JOIN. -/
theorem annotateGroups : Obligations.AnnotateGroups := by
  intro j f es hlen rs
  have hfix : rs = annotate j f rs := (annotate_idem j f es).symm
  have hrs : rs.length ≤ 255 := (annotate_length j f es).symm ▸ hlen
  have hskips : skipsOk j rs = true := annotate_skipsOk j f es
  refine ⟨annotate_map_key j f es, fun k x hx => ?_, fun hs k m x y z hx hkm hy hz => ?_⟩
  · obtain ⟨hpos, hend, hhead⟩ := skipsOk_spec j rs hskips hrs k x hx
    exact ⟨hpos, hend, fun m hkm hm => not_isHead_of_skip j rs hskips hrs hx hkm hm, fun _ => hhead,
      annotated_clear_getLsbD hfix hrs hx⟩
  · have hs' : rs.Pairwise (fun a b => a.pw ≤ b.pw) := (annotate_pairwise_pw j f es (· ≤ ·)).2 hs
    have hiff := isHead_succ_iff_of_sorted (j := j) hs' hy hz
    constructor
    · intro hm
      have hinside := not_isHead_of_skip j rs hskips hrs hx (Nat.lt_succ_of_le hkm) hm
      exact Nat.lt_of_not_le fun hge => Bool.noConfusion (hinside.symm.trans (hiff.2 hge))
    · intro hm
      obtain ⟨-, -, hhead⟩ := skipsOk_spec j rs hskips hrs k x hx
      exact hiff.1 (hm ▸ hhead)

/-- Settles O22: the entry that `skip` leads to is JOIN wider than its left neighbour, and that one no narrower than the
entry. -/
theorem groupSpacing : Obligations.GroupSpacing := by
  intro j f es hlen hs k x y hx hy
  have hs' : (annotate j f es).Pairwise (fun a b => a.pw ≤ b.pw) := (annotate_pairwise_pw j f es (· ≤ ·)).2 hs
  obtain ⟨hpos, hend, hhead⟩ := skipsOk_spec j _ (annotate_skipsOk j f es) (by rwa [annotate_length]) k x hx
  obtain ⟨n, hn⟩ := Nat.exists_eq_succ_of_ne_zero (Nat.ne_of_gt hpos)
  rw [hn] at hy hend hhead
  have hlast := List.getElem?_eq_getElem (l := annotate j f es) (i := k + n) (by omega)
  calc x.pw.toNat + j ≤ (annotate j f es)[k + n].pw.toNat + j :=
        Nat.add_le_add_right (pw_mono_of_sorted hs' (Nat.le_add_right k n) hx hlast) j
    _ ≤ y.pw.toNat := (isHead_succ_iff_of_sorted hs' hlast hy).1 hhead

end Sys2Proof.Machine

/-! ## RESET, and what no instruction touches (70_reset_and_hazards.md R280, R304; 10_state.md R45) -/

namespace Sys2Proof.Machine

/-- Settles O36: the reset input is enabled in every state, and what it leaves is `State.resetWith` but for the moves to
come and the count of draws, which R280 does not list. -/
theorem resetResult : Obligations.ResetResult := by
  intro s ms hv hs
  have hstep : step s = .next (State.doReset { s with script := ms }) := step_of_script hv hs rfl
  exact ⟨_, hstep, rfl, rfl, rfl, rfl, rfl, rfl, rfl, rfl, rfl, rfl, rfl, rfl, rfl, rfl, rfl, rfl, rfl⟩

/-- `t` is at the same time as `s`, under the same parameters, with the same moves to come and the same free schedule
(R45, R304). -/
structure TimeFrame (s t : State) : Prop where
  now : t.now = s.now
  cfg : t.cfg = s.cfg
  script : t.script = s.script
  draws : t.draws = s.draws
  prepWait : t.prepWait = s.prepWait

theorem TimeFrame.trans {r s t : State} (h : TimeFrame r s) (h' : TimeFrame s t) : TimeFrame r t where
  now := h'.now.trans h.now
  cfg := h'.cfg.trans h.cfg
  script := h'.script.trans h.script
  draws := h'.draws.trans h.draws
  prepWait := h'.prepWait.trans h.prepWait

/-! ### The commands -/

theorem CommandResult.timeFrame {s t : State} {i : Instr} (h : CommandResult s i t) : TimeFrame s t := by
  cases h <;> constructor <;> rfl

theorem exec_command_timeFrame {s t : State} {i : Instr} {v : U32} (hi : encode i = .cmd v) (h : exec i s = .next t) :
    TimeFrame s t := by
  obtain ⟨u, hu, hr⟩ := exec_command_result hi s
  obtain rfl : u = t := by simpa using hu.symm.trans h
  exact hr.timeFrame

/-! ### The preparations -/

theorem timeFrame_setBuf (s : State) (b : Bool) (q : Buffer) : TimeFrame s (s.setBuf b q) := by
  cases b <;> constructor <;> rfl

theorem timeFrame_rebuild (s : State) (a b : Bool) : TimeFrame s (s.rebuild a b) := by
  rw [rebuild_eq]
  constructor <;> simp

theorem timeFrame_incr {s t : State} (h : s.incr = .ok t) : TimeFrame s t := by
  obtain ⟨-, -, ⟨-, rfl⟩ | ⟨es, -, rfl⟩⟩ := incr_eq_ok s t h
  · exact (timeFrame_setBuf s _ _).trans (timeFrame_rebuild _ _ _)
  · constructor <;> simp

/-! ### The expiry step -/

theorem timeFrame_commit (s : State) : TimeFrame s s.commit :=
  ⟨commit_now s, commit_cfg s, commit_script s, commit_draws s, commit_prepWait s⟩

/-- Dropping pins, moving the cursor and scheduling an event load the timer, but let no time pass (R209, R210). -/
theorem timeFrame_schedule (s : State) (m : Pins) (k : U8) (x : Entry) (prev : U16) :
    TimeFrame s ((s.fall m k).schedule x prev) := by
  rcases schedule_cases (s.fall m k) x prev with ⟨-, e⟩ | ⟨-, e⟩ <;> rw [e] <;> constructor <;> rfl

theorem timeFrame_drain {s t : State} (h : s.drain = .ok t) : TimeFrame s t := by
  obtain ⟨x, y, -, -, rfl⟩ := (drain_eq_ok_iff s t).1 h
  exact timeFrame_schedule s x.clear _ y x.pw

theorem timeFrame_awaitCommit {s t : State} (h : s.awaitCommit = .ok t) : TimeFrame s t := by
  refine (timeFrame_commit s).trans ?_
  obtain ⟨x, -, ⟨-, -, hd⟩ | ⟨-, rfl⟩⟩ := (awaitCommit_eq_ok_iff s t).1 h
  · have hcursor : TimeFrame s.commit { s.commit with cursor := 0 } := ⟨rfl, rfl, rfl, rfl, rfl⟩
    exact hcursor.trans (timeFrame_drain hd)
  · rw [← fall_none]
    exact timeFrame_schedule s.commit 0 0 x s.minPulse

/-! ### Every instruction -/

theorem exec_timeFrame {s t : State} {i : Instr} (h : exec i s = .next t) : TimeFrame s t := by
  cases i with
  | prepRebuild =>
    cases h
    exact timeFrame_rebuild s _ _
  | prepIncr => exact timeFrame_incr ((finish_eq_next_iff _ _).1 h)
  | expireAllHigh =>
    cases h
    constructor <;> rfl
  | expireAwaitCommit => exact timeFrame_awaitCommit ((finish_eq_next_iff _ _).1 h)
  | expireDraining => exact timeFrame_drain ((finish_eq_next_iff _ _).1 h)
  | _ => exact exec_command_timeFrame rfl h

/-- Settles O42: a command writes only its own result, a preparation its buffer, the flag, the plan and the sequencer it
starts or restarts, an expiry step the sequencer; none of these is in the frame. -/
theorem instructionsTakeNoTime : Obligations.InstructionsTakeNoTime := by
  intro i s t h
  obtain ⟨hnow, hcfg, hscript, hdraws, hwait⟩ := exec_timeFrame h
  exact ⟨hnow, hcfg, hscript, hdraws, hwait⟩

end Sys2Proof.Machine

/-! ## An instruction placed where the next step reads it (30_encoding.md section 5; 00_scope.md R17) -/

namespace Sys2Proof

theorem decodeTableWord_eq_some_iff {nbits w : Nat} {i : Instr} :
    decodeTableWord nbits w = some i ↔ decode (tableCode nbits w) = .ok i := by
  unfold decodeTableWord
  cases decode (tableCode nbits w) <;> simp [Except.toOption]

end Sys2Proof

namespace Sys2Proof.Machine

theorem withCode_cfg (s : State) (c : Code) : (s.withCode c).cfg = s.cfg := by cases c <;> rfl

/-- `withCode` makes the move that reads the code the first of the script, and enables it: each kind of code is one case of
`stepRunsDecoded`. -/
theorem step_withCode {s : State} {c : Code} {i : Instr} (hv : s.cfg.valid = true) (hd : decode c = .ok i) :
    step (s.withCode c) = exec i { s.withCode c with script := s.script } := by
  obtain ⟨hcommand, hprepare, hexpire⟩ := stepRunsDecoded (s.withCode c) s.script i (by rw [withCode_cfg, hv])
  cases c with
  | cmd w => exact hcommand w rfl rfl hd
  | plan k => exact hprepare rfl hd
  | phase p => exact hexpire rfl rfl rfl hd

/-- Settles O39: a table row's bits stand for a code, and a code placed by `withCode` is what the next step runs. -/
theorem fetchWordRuns : Obligations.FetchWordRuns :=
  fun _ _ _ _ hv hd => step_withCode hv (decodeTableWord_eq_some_iff.1 hd)

end Sys2Proof.Machine
